-- ==== Sys2Proof/Word.lean ====
section
/-! DEFINITION. The word types of the ZR24: bytes of blocks and structures, and the 64-bit words of registers, record
parameters and controller-memory addresses (Conventions of 00_scope.md; R195, R203). -/

namespace Sys2Proof

/-- One byte of a block, a sector or a structure in controller memory. -/
abbrev Byte := BitVec 8

/-- A register, a record parameter, a detail word or an address in controller memory. -/
abbrev Word := BitVec 64

/-- The 4,096 data bytes of one block, in increasing byte order (R18). -/
abbrev Block := List Byte

/-- A sector as a lane carries it: the block and its 8 trailer bytes (R18). -/
abbrev Sector := List Byte

end Sys2Proof
end

