-- ==== Sys2Proof/Syntax.lean ====
section
/-! DEFINITION. The commands of the ZR24: one constructor of `Instr` for each row of spec/opcode_table.json, in the
table's order. The table gives no operand fields: the operands are what each step must be told from outside the part
(log 1): the Order Table entry taken, the lane and tag of an answer, the bytes a DMA read returned, a fault. -/

namespace Sys2Proof

/-- Who owns a frame, a lane request or a row job (R48, R63): the band of the stripe context in a window place, or the
order band of an Order Table entry. -/
inductive Owner where
  | sweepBand (place : Nat)
  | orderBand (entry : Nat)
deriving DecidableEq, Repr

/-- How a record fetch ended (R187, R189): with a host memory fault, or with the 64 header bytes and the bytes of the
scatter entries that were read. -/
inductive FetchEnd where
  | fault
  | read (header scatter : List Byte)
deriving DecidableEq, Repr

/-- How a checkpoint write ended (R142, R145): without fault; with a fault in step 4, the slot left holding `left`; or
with a fault in step 5, a complete body with `tail` as its four tail bytes. -/
inductive StoreEnd where
  | good
  | bodyFault (left : List Byte)
  | tailFault (tail : List Byte)
deriving DecidableEq, Repr

/-- How a gathering DMA ended (R172, R179): with a host memory fault, or with the new contents of each requested block
of the band, in increasing extent offset. -/
inductive GatherEnd where
  | fault
  | read (blocks : List Block)
deriving DecidableEq, Repr

/-- How a delivery DMA ended (R171, R179): with every block delivered, or with a host memory fault after the first
`delivered` blocks in increasing extent offset. -/
inductive DeliveryEnd where
  | good
  | fault (delivered : Nat)
deriving DecidableEq, Repr

/-- The commands. `upsets` names frames struck by an upset by the time the step reads frames (R56, log 12); `taken` is
how many byte writes of a checkpoint write in flight had taken when the slots are read or torn (R142, R146). -/
inductive Instr where
  /-- READ_EXTENT (R164): the order in this entry is taken by its owner. -/
  | readExtent (entry : Nat)
  /-- WRITE_EXTENT (R164). -/
  | writeExtent (entry : Nat)
  /-- LOAD_PROFILE (R3). -/
  | loadProfile (entry : Nat)
  /-- MEMBER_STATE (R14). -/
  | memberState (entry : Nat)
  /-- START_SWEEP (R97). -/
  | startSweep (entry : Nat)
  /-- PAUSE_SWEEP (R114). -/
  | pauseSweep (entry : Nat)
  /-- RESUME_SWEEP (R115). -/
  | resumeSweep (entry : Nat)
  /-- ABANDON_SWEEP (R120). -/
  | abandonSweep (entry : Nat)
  /-- SET_PACE (R159). -/
  | setPace (entry : Nat)
  /-- CHECKPOINT_NOW (R144). -/
  | checkpointNow (entry : Nat)
  /-- SET_RETRY_AREA (R131). -/
  | setRetryArea (entry : Nat)
  /-- REPORT (R192). -/
  | report (entry taken : Nat)
  /-- BARRIER (R191). -/
  | barrier (entry : Nat)
  /-- UNKNOWN_ORDER_KIND (R190). -/
  | unknownOrderKind (entry : Nat)
  /-- ANCHOR_WRITE (R195): an 8-byte write of ANCHOR. -/
  | anchorWrite (value : Word)
  /-- NUDGE (R188): an 8-byte write of NUDGE. -/
  | nudge (value : Word)
  /-- LOG_TAKEN_WRITE (R136): an 8-byte write of LOG_TAKEN. -/
  | logTakenWrite (value : Word)
  /-- ALERT_READ (R199): a read of `count` bytes of ALERT from byte `first`. -/
  | alertRead (first count : Nat)
  /-- ALERT_WRITE (R199): an 8-byte write of ALERT. -/
  | alertWrite (value : Word)
  /-- CONTROL_READ (R196): a read of `count` bytes of CONTROL from byte `first`. -/
  | controlRead (first count : Nat)
  /-- BIND (R184). -/
  | bind
  /-- UNBIND (R185). -/
  | unbind
  /-- CLEAR_CHAIN_FAULT (R189): CLEAR naming that condition alone. -/
  | clearChainFault
  /-- CLEAR_LOG_FAULT (R137). -/
  | clearLogFault
  /-- CLEAR_BUFFER_PARITY (R119). -/
  | clearBufferParity
  /-- CLEAR_RETRY_OVERFLOW (R197). -/
  | clearRetryOverflow
  /-- CLEAR_SPARE_FAULT (R119). -/
  | clearSpareFault
  /-- CLEAR_CHECKPOINT_FAULT (R145). -/
  | clearCheckpointFault
  /-- ENGINE_RESET (R186). -/
  | engineReset (taken : Nat)
  /-- POWER_ON_RESET (R186). -/
  | powerOnReset (taken : Nat)
  /-- HOST_LINK_RESET (R186). -/
  | hostLinkReset (taken : Nat)
  /-- REGISTER_WRITE (R195, R196): a write of `width` bytes at an offset of the register window. -/
  | registerWrite (offset width : Nat) (value : Word)
  /-- ANCHOR_READ (R184): the end of the anchor block read; none for a host memory fault. -/
  | anchorRead (bytes : Option (List Byte))
  /-- UNBIND_DRAIN_END (R185). -/
  | unbindDrainEnd
  /-- RECORD_FETCH (R187). -/
  | recordFetch (result : FetchEnd)
  /-- LINK_REREAD (R188): the end of the 8-byte reread; none for a host memory fault. -/
  | linkReread (bytes : Option (List Byte))
  /-- CHAIN_RESUME_READ (R189): the end of the 8-byte read; none for a host memory fault. -/
  | chainResumeRead (bytes : Option (List Byte))
  /-- DETAIL_WRITE_END (R193). -/
  | detailWriteEnd (entry : Nat) (fault : Bool)
  /-- COMPLETION_WORD_WRITE_END (R193). -/
  | completionWordWriteEnd (entry : Nat) (fault : Bool)
  /-- REPORT_WRITE_END (R192). -/
  | reportWriteEnd (entry : Nat) (fault : Bool)
  /-- STATUS_WORD_WRITE_END (R194). -/
  | statusWordWriteEnd (word : Nat) (fault : Bool)
  /-- PROFILE_FETCH (R5): the end of the profile block fetch; none for a host memory fault. -/
  | profileFetch (bytes : Option (List Byte))
  /-- LOAD_FLUSH_LIMIT (R6). -/
  | loadFlushLimit (lane : Nat)
  /-- REQUEST_ISSUE (R65). -/
  | requestIssue (lane : Nat) (upsets : List Nat)
  /-- GOOD (R68). -/
  | good (lane tag : Nat) (sectors : List Sector) (upsets : List Nat)
  /-- MEDIUM (R69): `index` is the failing index. -/
  | medium (lane tag index : Nat) (sectors : List Sector) (upsets : List Nat)
  /-- NOT_READY (R70). -/
  | notReady (lane tag : Nat) (upsets : List Nat)
  /-- FLUSHED (R75). -/
  | flushed (lane : Nat)
  /-- REQUEST_TIMER_EXPIRY (R72). -/
  | requestTimerExpiry (lane tag : Nat) (upsets : List Nat)
  /-- RECLAIM_FLUSH_LIMIT (R75). -/
  | reclaimFlushLimit (lane : Nat)
  /-- ORDER_BAND_GRANT (R54). -/
  | orderBandGrant
  /-- RECONSTRUCTION_JOB_END (R36). -/
  | reconstructionJobEnd (owner : Owner) (row : Nat) (upsets : List Nat)
  /-- DELTA_JOB_END (R43). -/
  | deltaJobEnd (entry row : Nat) (upsets : List Nat)
  /-- FULL_ROW_JOB_END (R44). -/
  | fullRowJobEnd (entry row : Nat) (upsets : List Nat)
  /-- FULL_ROW_RECONSTRUCTION_JOB_END (R45). -/
  | fullRowReconstructionJobEnd (entry row : Nat) (upsets : List Nat)
  /-- CONTEXT_LAUNCH (R101). -/
  | contextLaunch
  /-- BAND_LAUNCH (R103): for the context in this window place. -/
  | bandLaunch (place : Nat)
  /-- EXTENSION_JOIN_WRITE_END (R126). -/
  | extensionJoinWriteEnd (fault : Bool)
  /-- REFILL_READ_END (R129): the 16 bytes of the entry; none for a host memory fault. -/
  | refillReadEnd (bytes : Option (List Byte))
  /-- CHECKPOINT_WRITE_END (R143). -/
  | checkpointWriteEnd (result : StoreEnd)
  /-- CHECKPOINT_READ_END (R147). -/
  | checkpointReadEnd
  /-- ENTER_PAUSED (R114). -/
  | enterPaused
  /-- ENTER_HALTED (R118). -/
  | enterHalted
  /-- WINDOW_TIMER_EXPIRY (R157). -/
  | windowTimerExpiry
  /-- LOG_BODY_WRITE_END (R135). -/
  | logBodyWriteEnd (fault : Bool)
  /-- LOG_HEADER_WRITE_END (R135). -/
  | logHeaderWriteEnd (fault : Bool)
  /-- DELIVERY_END (R171). -/
  | deliveryEnd (entry : Nat) (result : DeliveryEnd) (upsets : List Nat)
  /-- GATHER_END (R172). -/
  | gatherEnd (entry : Nat) (result : GatherEnd) (upsets : List Nat)
deriving DecidableEq, Repr

end Sys2Proof
end

