-- ==== Sys2Proof/Config.lean ====
section
/-! DEFINITION. The values the spec leaves open: constants without a body, applied to the model's own counter, so that
nothing in Lean can know one. A statement about them holds whatever they are. -/

namespace Sys2Proof

/-- A detail word of a completed order for which no rule states a value (log 5). -/
opaque Config.openDetail : Nat → Word

/-- The bits of a read of ALERT or CONTROL that R209 lists no field for (log 6). -/
opaque Config.spareBits : Nat → Word

/-- The faulting address published when a detail or completion word write faulted (R189 names none; log 7). -/
opaque Config.wordFaultAddress : Nat → Word

/-- Detail B of an order stopped after its last order row had completed (R180 names no row then; log 8). -/
opaque Config.noRowLeft : Nat → Word

/-- A byte of a report field that nothing in the part gives a value: of a FREE or RESERVED Retry List place, of a window
place without a context, of a parameter set that is absent (R208; log 22). -/
opaque Config.emptyField : Nat → Nat → Byte

/-- Whether a row job that ends with BUFFER_PARITY had already written the output frame of this number (R47; log 59). -/
opaque Config.jobWrote : Nat → Nat → Bool

/-- A byte of the block area of an output frame such a job had written, by frame and place (R47; log 59). -/
opaque Config.unfinishedByte : Nat → Nat → Nat → Byte

/-- How many byte writes of a checkpoint write had taken when a REGISTER_WRITE resets the engine (R146; log 24). -/
opaque Config.tornWrites : Nat → Nat

end Sys2Proof
end

