-- ==== Sys2Proof/Machine/State.lean ====
section
/-! DEFINITION. The state of the ZR24 as plain data: the thirteen blocks of 00_scope.md (`Part`) and the queue of waiting
commands. `State.reset` is the machine right after a power-on reset with no earlier one (R17, R60, R81, R94, R95, R138,
R148, R149, R201). -/

namespace Sys2Proof.Machine

/-! ### The ways a step can stop -/

/-- No command of the ZR24 stops the machine: every fault the manual describes is an effect on state. -/
inductive Fault where
deriving DecidableEq, Repr

/-- The one refusal is the interface's: a command without a meaning. No arm uses it. -/
inductive Refusal where
  /-- Raised by no arm of `exec`: a command that has no meaning yet (safe: the run stops). -/
  | notModelled (mnemonic : String)
deriving DecidableEq, Repr

/-! ### Writes to controller memory -/

/-- A write by DMA into controller memory in flight (log 15): its address and its bytes. -/
structure HostWrite where
  address : Word
  bytes : List Byte
deriving DecidableEq, Repr

/-! ### Alert Unit (12.7, 12.8) -/

/-- The alert causes, in priority order (R198). -/
inductive Cause where
  | arrayFailed | bufferParity | retryOverflow | chainFault | logFault | memberDown
  | sweepHalted | checkpointFault | logFull | retrySpill | sweepDone | orderNotify
deriving DecidableEq, Repr

/-- The latched conditions, in bit order (R197, R206). -/
inductive Condition where
  | chainFault | logFault | bufferParity | retryOverflow | spareFault | checkpointFault
deriving DecidableEq, Repr

/-- The Alert Unit (R197 to R201). `levels` are the nine anchor levels in priority order from CHAIN_FAULT; `pulses`
counts the pulses given on the attention output (log 14). -/
structure AlertUnit where
  pending : BitVec 12
  levels : List Nat
  mask : Nat
  pulseMode : Bool
  latched : BitVec 6
  attention : Bool
  pulses : Nat
deriving DecidableEq, Repr

/-! ### Geometry Unit (chapter 1) -/

/-- Member states and their codes (R10, R206): unmapped is code 0. -/
inductive MemberState where
  | unmapped | online | target | absent
deriving DecidableEq, Repr

/-- One Member Table record (R9). The outstanding and quarantined counts are those of the lane's tags (R67). -/
structure Member where
  lane : Nat
  state : MemberState
  medium : Nat
  timeouts : Nat
  trailers : Nat
  consecutive : Nat
deriving DecidableEq, Repr

/-- The array condition (R15). -/
inductive ArrayCondition where
  | whole | single | double | failed
deriving DecidableEq, Repr

/-- The arbiter modes (R66). -/
inductive ArbiterMode where
  | orderFirst | sweepFirst | alternate | byUrgency
deriving DecidableEq, Repr

/-- A pacing parameter set (R149); `initial` is B0 as it was given, clamped into [F, C] once the set is installed. -/
structure PaceSet where
  adaptive : Bool
  floor : Nat
  ceiling : Nat
  low : Nat
  high : Nat
  initial : Nat
  window : Nat
deriving DecidableEq, Repr

/-- The array profile (R1), in field order; `pace` is fields 19 to 25. -/
structure Profile where
  signature : Nat
  m : Nat
  k : Nat
  stripes : Nat
  base : Nat
  lanes : List Nat
  states : List MemberState
  mend : Bool
  sweepWindow : Nat
  bandRows : Nat
  retryPasses : Nat
  timeout : Nat
  requestRetries : Nat
  absence : Nat
  depth : Nat
  arbiter : ArbiterMode
  sweepPool : Nat
  interval : Nat
  pace : PaceSet
deriving DecidableEq, Repr

/-- A profile load in progress (R3, R6): its order, whether the block is still being fetched, the lanes not yet
settled and the slots made ABSENT by the 1 s limit. -/
structure Load where
  entry : Nat
  fetching : Bool
  unsettled : List Nat
  absentSlots : BitVec 24
deriving DecidableEq, Repr

/-- The Geometry Unit. `failed` is the sticky FAILED of R15; `held` are the orders held by a load, oldest first (R4). -/
structure Geometry where
  profile : Option Profile
  members : List Member
  failed : Bool
  load : Option Load
  held : List Nat
deriving DecidableEq, Repr

/-! ### Erasures (chapter 2) -/

/-- Erasure kinds (R25). -/
inductive ErasureKind where
  | medium | trailer | poison | absent | timeout | notReady | unbuilt
deriving DecidableEq, Repr

/-- A block's result (R26). -/
inductive BlockResult where
  | good
  | erased (kind : ErasureKind)
deriving DecidableEq, Repr

/-- Deferral reasons (R28, R206). -/
inductive Reason where
  | timeout | notReady
deriving DecidableEq, Repr

/-- Row classes (R28). -/
inductive RowClass where
  | clean
  | recoverable
  | deferrable (reason : Reason)
  | lost
deriving DecidableEq, Repr

/-! ### Stripe Buffer (chapter 4) -/

/-- The two pools (R49). -/
inductive Pool where
  | sweep | order
deriving DecidableEq, Repr

/-- Frame states (R48). -/
inductive FrameState where
  | free | reserved | loaded | placed | unfit
deriving DecidableEq, Repr

/-- A frame (R48): its block area of 4,096 bytes and its trailer area of 8, whose `trailer` is empty once a job has left
it without one (R47, log 59). `upset` says that its bytes no longer agree with its protection bits (R56, log 12). -/
structure Frame where
  pool : Option Pool
  owner : Option Owner
  state : FrameState
  block : Block
  trailer : List Byte
  upset : Bool
deriving DecidableEq, Repr

/-- What a frame of a band is for (R51, R53): the contents read from a member, or the contents to be written. -/
inductive FramePart where
  | old | new
deriving DecidableEq, Repr

/-- A frame's place in its owner's layout: the row, slot and part it serves (R51, R53). -/
structure FramePlace where
  row : Nat
  slot : Nat
  part : FramePart
  frame : Nat
deriving DecidableEq, Repr

/-- The Stripe Buffer: frames by number, and the order-pool queue of (entry, frames needed), head first (R48, R54). -/
structure Buffer where
  frames : List Frame
  queue : List (Nat × Nat)
deriving DecidableEq, Repr

/-! ### Member Port (chapter 5) -/

/-- Where a request comes from (R63). -/
inductive Origin where
  | first | retry | followUp
deriving DecidableEq, Repr

/-- A lane request (R63). Its class is its owner's kind; `row` is the stripe row of its first block. -/
structure LaneRequest where
  owner : Owner
  write : Bool
  slot : Nat
  lane : Nat
  lba : Nat
  count : Nat
  row : Nat
  frames : List Nat
  mend : Bool
  retries : Nat
  origin : Origin
deriving DecidableEq, Repr

/-- A tag (R67). An ISSUED tag is bound to its request and, for a WRITE, the sectors that went onto the lane; its
timer runs exactly while it is ISSUED. -/
inductive Tag where
  | free
  | issued (request : LaneRequest) (sent : List Sector)
  | quarantined
deriving DecidableEq, Repr

/-- Lane states (R62); FLUSHING keeps its cause. -/
inductive LaneState where
  | unmapped | opened | reclaiming | flushingLoad | flushingReclaim | closed
deriving DecidableEq, Repr

/-- The two request classes (R63). -/
inductive LaneClass where
  | sweep | order
deriving DecidableEq, Repr

/-- A lane (R62, R64, R66, R67). Queues are head first. -/
structure Lane where
  state : LaneState
  tags : List Tag
  sweepQueue : List LaneRequest
  orderQueue : List LaneRequest
  flushes : Nat
  lastWinner : LaneClass
deriving DecidableEq, Repr

/-! ### Lock Table (chapter 6) -/

/-- Who asks for locks (R82): an order by its entry, a stripe context by its place. -/
inductive Requester where
  | order (entry : Nat)
  | context (place : Nat)
deriving DecidableEq, Repr

/-- Lock modes (R82). -/
inductive LockMode where
  | shared | exclusive
deriving DecidableEq, Repr

/-- An entry in use (R82). -/
structure LockEntry where
  stripe : Nat
  mode : LockMode
  holders : List Requester
  waiters : List (Requester × LockMode)
deriving DecidableEq, Repr

/-- A request on the global wait list (R85). -/
structure LockWait where
  requester : Requester
  stripe : Nat
  mode : LockMode
deriving DecidableEq, Repr

/-- The Lock Table: 16 entries and the global wait list, head first (R82, R85). -/
structure LockTable where
  entries : List (Option LockEntry)
  waiting : List LockWait
deriving DecidableEq, Repr

/-! ### Sweep Controller (chapter 7) -/

/-- The sweep states (R95). -/
inductive SweepState where
  | idle | starting | sweeping | retrying | pausing | paused | halting | halted | abandoning | finishing | done
deriving DecidableEq, Repr

/-- The two passes (R95, R100). -/
inductive Pass where
  | main | retry
deriving DecidableEq, Repr

/-- Context phases (R100). -/
inductive Phase where
  | lockWait | banding | settling
deriving DecidableEq, Repr

/-- Halt causes, in bit order (R117, R206). -/
inductive HaltCause where
  | spareFault | bufferParity | retryOverflow | arrayFailed
deriving DecidableEq, Repr

/-- Where a sweep band stands (R104 to R108, R58). -/
inductive BandStage where
  | reading | rebuilding | writing | discarded
deriving DecidableEq, Repr

/-- A reconstruction row job of a sweep band (R36, R105). -/
structure SweepJob where
  row : Nat
  erased : List Nat
  wanted : List Nat
deriving DecidableEq, Repr

/-- A sweep band in flight (R103 to R107). `results` are (row, slot, result); `writeRows` the RECOVERABLE and LOST rows
in increasing order; `mends` the (row, slot) of mendable blocks. -/
structure SweepBand where
  row0 : Nat
  count : Nat
  target : Nat
  readers : List Nat
  places : List FramePlace
  results : List (Nat × Nat × BlockResult)
  stage : BandStage
  jobs : List SweepJob
  writeRows : List Nat
  mends : List (Nat × Nat)
deriving DecidableEq, Repr

/-- A stripe context (R100). `entryReason` is the reason of the Retry List entry it took (R128); `joining` says that its
settle waits for the Retry List's answer (R109 step 1). -/
structure Context where
  stripe : Nat
  attempt : Nat
  entryReason : Option Reason
  source : Pass
  phase : Phase
  settled : Bool
  nextRow : Nat
  lostRows : BitVec 64
  mendedRows : BitVec 64
  mendFailed : Bool
  involved : BitVec 24
  deferral : Option Reason
  reserved : Bool
  band : Option SweepBand
  joining : Bool
deriving DecidableEq, Repr

/-- An ABANDON waiting for IDLE (R120): its entry, W when it was taken, and how its checkpoint write ended. -/
structure AbandonWait where
  entry : Nat
  watermark : Nat
  wrote : Option Bool
deriving DecidableEq, Repr

/-- The Sweep Controller (R95). The window is its four places. -/
structure Sweep where
  state : SweepState
  pass : Pass
  watermark : Nat
  next : Nat
  window : List (Option Context)
  haltSet : BitVec 4
  settleCount : Nat
  startWait : Option Nat
  pauseWait : List Nat
  abandonWait : Option AbandonWait
deriving DecidableEq, Repr

/-! ### Retry List (8.1 to 8.5) -/

/-- An on-chip entry (R124). -/
structure RetryEntry where
  stripe : Nat
  attempt : Nat
  reason : Reason
  taken : Option Nat
deriving DecidableEq, Repr

/-- A join handed to the Retry List by the context in a window place: a new entry or the move of its taken entry (R126). -/
structure Join where
  place : Nat
  stripe : Nat
  attempt : Nat
  reason : Reason
  move : Bool
deriving DecidableEq, Repr

/-- The DMA on the extension (R124): none, a join write or a refill read; `discard` after an emptying (R132). -/
inductive ExtensionBusy where
  | idle
  | join (work : Join) (discard : Bool)
  | refill (discard : Bool)
deriving DecidableEq, Repr

/-- Overflow details (R124, R206). -/
inductive OverflowDetail where
  | none | full | areaFault
deriving DecidableEq, Repr

/-- The Retry List (R124). `onChip` are the OCCUPIED places, oldest first; a refill read in flight is the one RESERVED
place; the other places of the 32 are FREE. `range` is (spilled low, spilled high), `write` the join write in flight
(R126, R205). -/
structure RetryList where
  onChip : List RetryEntry
  address : Word
  capacity : Nat
  head : Nat
  tail : Nat
  count : Nat
  busy : ExtensionBusy
  joins : List Join
  range : Option (Nat × Nat)
  spilled : Bool
  overflow : Bool
  detail : OverflowDetail
  write : Option HostWrite
deriving DecidableEq, Repr

/-! ### Findings Writer (8.6, 8.7) -/

/-- A finding (R134). -/
structure Finding where
  stripe : Nat
  pass : Pass
  attempt : Nat
  lostRows : BitVec 64
  mendedRows : BitVec 64
  mendFailed : Bool
  involved : BitVec 24
  deferral : Option Reason
deriving DecidableEq, Repr

/-- The log entry being written (R135). -/
inductive LogWriter where
  | idle | body | header
deriving DecidableEq, Repr

/-- The Findings Writer (R133 to R138). Reservations are the contexts' marks; `waiting` are the places whose contexts
wait for one (R133); `write` is the log write in flight (R135, R208). -/
structure Findings where
  staged : List Finding
  waiting : List Nat
  area : Option (Word × Nat)
  writeIndex : Nat
  sequence : Nat
  lastSequence : Nat
  episode : Bool
  writer : LogWriter
  write : Option HostWrite
deriving DecidableEq, Repr

/-! ### Checkpoint Store (chapter 9) -/

/-- A checkpoint write in flight (R142): the slot, the record's generation, resume point and state code, its byte writes
in order, and how many have taken. -/
structure StoreWrite where
  slot : Nat
  generation : Nat
  resume : Nat
  code : Nat
  writes : List (Nat × Byte)
  taken : Nat
deriving DecidableEq, Repr

/-- A waiter (R143); `late` when its request was taken while the write in flight was under way. -/
structure Waiter where
  entry : Nat
  late : Bool
deriving DecidableEq, Repr

/-- The slot read of R147. -/
inductive SlotRead where
  | none | waiting | reading
deriving DecidableEq, Repr

/-- The Checkpoint Store (R139 to R148). `sweepWait` is the FINISHING or ABANDONING wait with its `late` mark; `last` is
(generation, resume point, state code) of the last write ended without fault. -/
structure CheckpointStore where
  slots : List (List Byte)
  write : Option StoreWrite
  again : Bool
  waiters : List Waiter
  sweepWait : Option Bool
  read : SlotRead
  target : Option Nat
  last : Option (Nat × Nat × Nat)
deriving DecidableEq, Repr

/-! ### Pace Controller (chapter 10) -/

/-- The Pace Controller (R149). `track` is the mode TRACK, `below` the drift side BELOW; `timer` is the length the
running window timer was loaded with, or none. -/
structure Pace where
  installed : Option PaceSet
  next : Option PaceSet
  budget : Nat
  remaining : Nat
  track : Bool
  inBand : Nat
  drift : Nat
  below : Bool
  timer : Option Nat
  lastBacklog : Nat
deriving DecidableEq, Repr

/-! ### Orders (chapters 11 and 12) -/

/-- A scatter entry (R203). -/
structure Scatter where
  address : Word
  length : Nat
deriving DecidableEq, Repr

/-- An order record as fetched (R187, R203). -/
structure OrderRecord where
  address : Word
  kind : Nat
  notify : Bool
  scatterCount : Nat
  tag : BitVec 32
  p0 : Word
  p1 : Word
  p2 : Word
  scatter : List Scatter
deriving DecidableEq, Repr

/-- Completion statuses, in code order (R203). -/
inductive Status where
  | ok | recovered | dataLost | invalid | outOfRange | busy | noProfile | arrayFailed | bufferFault
  | hostMemoryFault | noCheckpoint | mismatch | checkpointFailed
deriving DecidableEq, Repr

/-- Write methods (R173) and the full-row method with reconstruction (R175). -/
inductive Method where
  | parityLess | fullNoReads | delta | full | fullReconstruction
deriving DecidableEq, Repr

/-- Where a row of an order band stands (R169 to R177). -/
inductive RowPhase where
  | gathering | direct | reconstructing | reading | job | ready | writing
  | done (completed : Bool)
deriving DecidableEq, Repr

/-- A row job of an order band: the erased slots (R36), the wanted slots, and the parity slots to compute (R43, R44). -/
structure RowJob where
  erased : List Nat
  wanted : List Nat
  parity : List Nat
deriving DecidableEq, Repr

/-- A row of an order band. `want` are the slots of the requested blocks in increasing data index; `asked` the slots
read; `ready` the slots to deliver. A row struck by a frame parity error is done and not completed (R59). -/
structure RowWork where
  row : Nat
  want : List Nat
  phase : RowPhase
  method : Method
  asked : List Nat
  results : List (Nat × BlockResult)
  job : Option RowJob
  ready : List Nat
deriving DecidableEq, Repr

/-- One piece of a host DMA of an order band: controller memory address and length (R163). -/
structure DmaPiece where
  address : Word
  length : Nat
deriving DecidableEq, Repr

/-- One block moved by a host DMA: its band row and slot and its pieces in order (R163). -/
structure BlockMove where
  row : Nat
  slot : Nat
  pieces : List DmaPiece
deriving DecidableEq, Repr

/-- The host DMA of an order band (R171, R172). -/
inductive BandDma where
  | idle
  | gather (moves : List BlockMove)
  | delivery (moves : List BlockMove)
deriving DecidableEq, Repr

/-- An order band (R167): WAITING for frames, or in flight. -/
structure OrderBand where
  granted : Bool
  rows : List RowWork
  places : List FramePlace
  dma : BandDma
deriving DecidableEq, Repr

/-- Where an order's lock stands (R165). -/
inductive LockStanding where
  | none | waiting | held
deriving DecidableEq, Repr

/-- Stop causes (R165). -/
inductive StopCause where
  | arrayFailed | bufferFault | hostMemoryFault
deriving DecidableEq, Repr

/-- An extent order's progress record (R165). `rowsLeft` are the touched rows of the stripe in hand not yet in a band. -/
structure Extent where
  stripe : Option Nat
  lock : LockStanding
  rebuilt : Option Bool
  unbuilt : Option Nat
  rowsLeft : List Nat
  band : Option OrderBand
  rowsDone : Nat
  lost : Nat
  firstLost : Option Nat
  reconstructed : Nat
  stop : Option StopCause
deriving DecidableEq, Repr

/-- What an Order Table entry is doing. `completing` holds the status, the two details and whether the completion word
is being written (after the detail words, R193; the writes themselves are the entry's `writes`); every other case is
ACTIVE. -/
inductive OrderWork where
  | handed
  | held
  | waiting
  | extent (progress : Extent)
  | report (bytes : List Byte)
  | completing (status : Status) (detailA detailB : Word) (word : Bool)
deriving DecidableEq, Repr

/-- An Order Table entry in use (R190), with the writes in flight into its record or its report buffer (R192, R193,
R203); an entry just dispatched has none. -/
structure OrderEntry where
  record : OrderRecord
  work : OrderWork
  writes : List HostWrite := []
deriving DecidableEq, Repr

/-- The Order Table: 32 entries, and the entries dispatched and not yet taken by their owners, oldest first (log 2). -/
structure OrderTable where
  entries : List (Option OrderEntry)
  handed : List Nat
deriving DecidableEq, Repr

/-! ### Order Intake, register window, status page (chapter 12) -/

/-- Engine states (R182). -/
inductive EngineState where
  | unbound | binding | bound | unbinding
deriving DecidableEq, Repr

/-- Intake states (R187). -/
inductive IntakeState where
  | stopped | following | parked | faulted
deriving DecidableEq, Repr

/-- A read by DMA (R187 to R189): none in flight, in flight, or in flight with its result to be discarded. -/
inductive ReadFlight where
  | none | live | stale
deriving DecidableEq, Repr

/-- The Order Intake (R187). `fetchAddress` is the record being fetched; `leftover` the next record published once the
intake has stopped or faulted (R185, R189). -/
structure Intake where
  state : IntakeState
  fetchPosition : Option Word
  parked : Option Word
  latch : Bool
  holding : List OrderRecord
  barrier : Option Nat
  depth : Option Nat
  statusPage : Option Word
  fetch : ReadFlight
  fetchAddress : Word
  reread : ReadFlight
  resumeRead : ReadFlight
  faultAddress : Word
  leftover : Word
deriving DecidableEq, Repr

/-- The register window (R195, R196). `readData` is what the last register read returned (log 13). -/
structure Registers where
  anchor : Word
  logTaken : Word
  bindFailed : Bool
  refused : Bool
  readData : Word
deriving DecidableEq, Repr

/-- The engine (R182). `drained` is set when the last stretch of UNBINDING begins (R185). -/
structure Engine where
  state : EngineState
  drained : Bool
deriving DecidableEq, Repr

/-- A status-page word (R194): its value, its write in flight, and whether a rewrite waits. -/
structure StatusWord where
  value : Word
  writing : Option HostWrite
  waiting : Bool
deriving DecidableEq, Repr

/-! ### The whole -/

/-- The thirteen blocks. -/
structure Part where
  regs : Registers
  engine : Engine
  intake : Intake
  table : OrderTable
  status : List StatusWord
  alerts : AlertUnit
  geometry : Geometry
  buffer : Buffer
  lanes : List Lane
  locks : LockTable
  sweep : Sweep
  retry : RetryList
  findings : Findings
  store : CheckpointStore
  pace : Pace
  freeCount : Nat
deriving DecidableEq, Repr

/-- The machine: the part, and the commands that wait, first in, first out (log 3). `freeCount` inside the part is the
model's own counter for values the spec leaves open (log 9). -/
structure State where
  part : Part
  pending : List Instr
deriving DecidableEq, Repr

/-! ### Reset values -/

/-- R201. -/
def AlertUnit.initial : AlertUnit :=
  { pending := 0, levels := List.replicate 9 0, mask := 0, pulseMode := false, latched := 0, attention := false,
    pulses := 0 }

/-- R17: unmapped, every count 0; the lane of an unmapped record is the model's 0 (log 31). -/
def Member.unmappedRecord : Member :=
  { lane := 0, state := .unmapped, medium := 0, timeouts := 0, trailers := 0, consecutive := 0 }

/-- R17. The array condition, which R17 does not define before a profile is installed, is WHOLE here: nothing is FAILED
(DESIGN CHOICE, log 72). -/
def Geometry.initial : Geometry :=
  { profile := none, members := List.replicate 24 Member.unmappedRecord, failed := false, load := none, held := [] }

/-- R48, R60; its areas hold what they held, zeros at the first reset (log 11). -/
def Frame.initial : Frame :=
  { pool := none, owner := none, state := .free, block := List.replicate 4096 0, trailer := List.replicate 8 0,
    upset := false }

/-- R60. -/
def Buffer.initial : Buffer := { frames := List.replicate 1024 Frame.initial, queue := [] }

/-- R81. -/
def Lane.initial : Lane :=
  { state := .unmapped, tags := List.replicate 16 .free, sweepQueue := [], orderQueue := [], flushes := 0,
    lastWinner := .sweep }

/-- R94. -/
def LockTable.initial : LockTable := { entries := List.replicate 16 none, waiting := [] }

/-- R95. -/
def Sweep.initial : Sweep :=
  { state := .idle, pass := .main, watermark := 0, next := 0, window := List.replicate 4 none, haltSet := 0,
    settleCount := 0, startWait := none, pauseWait := [], abandonWait := none }

/-- R138. -/
def RetryList.initial : RetryList :=
  { onChip := [], address := 0, capacity := 0, head := 0, tail := 0, count := 0, busy := .idle, joins := [],
    range := none, spilled := false, overflow := false, detail := .none, write := none }

/-- R138; the sequence counter holds 1 before the next BIND, too (DESIGN CHOICE, log 67). -/
def Findings.initial : Findings :=
  { staged := [], waiting := [], area := none, writeIndex := 0, sequence := 1, lastSequence := 0, episode := false,
    writer := .idle, write := none }

/-- R148. The slots are nonvolatile; a part leaves manufacture with both invalid (R139), here all zero bytes (log 10). -/
def CheckpointStore.initial : CheckpointStore :=
  { slots := List.replicate 2 (List.replicate 256 0), write := none, again := false, waiters := [], sweepWait := none,
    read := .none, target := none, last := none }

/-- R149. -/
def Pace.initial : Pace :=
  { installed := none, next := none, budget := 0, remaining := 0, track := false, inBand := 0, drift := 0,
    below := false, timer := none, lastBacklog := 0 }

/-- R201. -/
def OrderTable.initial : OrderTable := { entries := List.replicate 32 none, handed := [] }

/-- R201. -/
def Intake.initial : Intake :=
  { state := .stopped, fetchPosition := none, parked := none, latch := false, holding := [], barrier := none,
    depth := none, statusPage := none, fetch := .none, fetchAddress := 0, reread := .none, resumeRead := .none,
    faultAddress := 0, leftover := 0 }

/-- R201; `readData` is the model's 0 (log 13). -/
def Registers.initial : Registers :=
  { anchor := 0, logTaken := 0, bindFailed := false, refused := false, readData := 0 }

/-- R201. -/
def Engine.initial : Engine := { state := .unbound, drained := false }

/-- No status page is in use. -/
def StatusWord.initial : StatusWord := { value := 0, writing := none, waiting := false }

/-- Every block at its reset value. -/
def Part.initial : Part :=
  { regs := .initial, engine := .initial, intake := .initial, table := .initial,
    status := List.replicate 16 StatusWord.initial, alerts := .initial, geometry := .initial, buffer := .initial,
    lanes := List.replicate 24 Lane.initial, locks := .initial, sweep := .initial, retry := .initial,
    findings := .initial, store := .initial, pace := .initial, freeCount := 0 }

/-- The machine right after reset: every block at its reset value, no command waiting. -/
def State.reset : State := { part := .initial, pending := [] }

/-! ### One update per block

Every change of state goes through one of these: a block's new contents from its old. Their lemmas are in
Laws/State.lean. -/

/-- Changes the block `regs` alone. -/
def Part.onRegs (p : Part) (f : Registers → Registers) : Part := { p with regs := f p.regs }

/-- Changes the block `engine` alone. -/
def Part.onEngine (p : Part) (f : Engine → Engine) : Part := { p with engine := f p.engine }

/-- Changes the block `intake` alone. -/
def Part.onIntake (p : Part) (f : Intake → Intake) : Part := { p with intake := f p.intake }

/-- Changes the block `table` alone. -/
def Part.onTable (p : Part) (f : OrderTable → OrderTable) : Part := { p with table := f p.table }

/-- Changes the block `status` alone. -/
def Part.onStatus (p : Part) (f : (List StatusWord) → (List StatusWord)) : Part := { p with status := f p.status }

/-- Changes the block `alerts` alone. -/
def Part.onAlerts (p : Part) (f : AlertUnit → AlertUnit) : Part := { p with alerts := f p.alerts }

/-- Changes the block `geometry` alone. -/
def Part.onGeometry (p : Part) (f : Geometry → Geometry) : Part := { p with geometry := f p.geometry }

/-- Changes the block `buffer` alone. -/
def Part.onBuffer (p : Part) (f : Buffer → Buffer) : Part := { p with buffer := f p.buffer }

/-- Changes the block `lanes` alone. -/
def Part.onLanes (p : Part) (f : (List Lane) → (List Lane)) : Part := { p with lanes := f p.lanes }

/-- Changes the block `locks` alone. -/
def Part.onLocks (p : Part) (f : LockTable → LockTable) : Part := { p with locks := f p.locks }

/-- Changes the block `sweep` alone. -/
def Part.onSweep (p : Part) (f : Sweep → Sweep) : Part := { p with sweep := f p.sweep }

/-- Changes the block `retry` alone. -/
def Part.onRetry (p : Part) (f : RetryList → RetryList) : Part := { p with retry := f p.retry }

/-- Changes the block `findings` alone. -/
def Part.onFindings (p : Part) (f : Findings → Findings) : Part := { p with findings := f p.findings }

/-- Changes the block `store` alone. -/
def Part.onStore (p : Part) (f : CheckpointStore → CheckpointStore) : Part := { p with store := f p.store }

/-- Changes the block `pace` alone. -/
def Part.onPace (p : Part) (f : Pace → Pace) : Part := { p with pace := f p.pace }

/-- Changes the block `freeCount` alone. -/
def Part.onFreeCount (p : Part) (f : Nat → Nat) : Part := { p with freeCount := f p.freeCount }

end Sys2Proof.Machine
end

