-- ==== Sys2Proof/Machine/Operands.lean ====
section
/-! DEFINITION. What the part reads: little-endian fields, order records, scatter entries, the profile block, the anchor
block, retry extension entries and the SET PACE parameters (13_formats.md), with the checks that R2, R183, R159 and R207
make of them. Reserved bytes and bits are ignored (R202). -/

namespace Sys2Proof.Machine

/-! ### Little-endian fields -/

/-- The value of bytes, least significant first (00_scope.md, Conventions). -/
def leValue : List Byte → Nat
  | [] => 0
  | b :: bs => b.toNat + 256 * leValue bs

/-- The field of `size` bytes at an offset of a structure. -/
def leField (bytes : List Byte) (offset size : Nat) : Nat := leValue ((bytes.drop offset).take size)

/-- The 8-byte field at an offset. -/
def wordField (bytes : List Byte) (offset : Nat) : Word := BitVec.ofNat 64 (leField bytes offset 8)

/-- `size` bytes of a value, least significant first. -/
def leBytes : Nat → Nat → List Byte
  | 0, _ => []
  | size + 1, n => BitVec.ofNat 8 n :: leBytes size (n / 256)

/-- An address is a multiple of `n`. -/
def aligned (n : Nat) (a : Word) : Bool := a.toNat % n = 0

/-- A chain address: 64-byte aligned and not 0 (R183, R187, R189). -/
def chainAddressOk (a : Word) : Bool := aligned 64 a && a != 0

/-! ### Order records (R203) -/

/-- The kind codes of R203. -/
def kindReadExtent : Nat := 0x01
def kindWriteExtent : Nat := 0x02
def kindLoadProfile : Nat := 0x10
def kindMemberState : Nat := 0x11
def kindStartSweep : Nat := 0x20
def kindPauseSweep : Nat := 0x21
def kindResumeSweep : Nat := 0x22
def kindAbandonSweep : Nat := 0x23
def kindSetPace : Nat := 0x24
def kindCheckpointNow : Nat := 0x25
def kindSetRetryArea : Nat := 0x26
def kindReport : Nat := 0x30
def kindBarrier : Nat := 0x31

/-- Every kind code that names an order (R203). -/
def orderKinds : List Nat :=
  [kindReadExtent, kindWriteExtent, kindLoadProfile, kindMemberState, kindStartSweep, kindPauseSweep, kindResumeSweep,
   kindAbandonSweep, kindSetPace, kindCheckpointNow, kindSetRetryArea, kindReport, kindBarrier]

/-- READ EXTENT or WRITE EXTENT (R190). -/
def isExtentKind (kind : Nat) : Bool := kind = kindReadExtent || kind = kindWriteExtent

/-- Scatter entries laid end to end: address at 0, length at 8, 16 bytes each (R203). -/
def scatterEntries : Nat → List Byte → List Scatter
  | 0, _ => []
  | n + 1, bytes =>
    { address := wordField bytes 0, length := leField bytes 8 4 } :: scatterEntries n (bytes.drop 16)

/-- The scatter entries a fetch reads: those of an extent record whose scatter count is 1 to 64 (R187). -/
def fetchedScatter (kind count : Nat) (bytes : List Byte) : List Scatter :=
  if isExtentKind kind && 1 ≤ count && count ≤ 64 then scatterEntries count bytes else []

/-- An order record from its header and scatter bytes (R203). -/
def orderRecord (address : Word) (header scatter : List Byte) : OrderRecord :=
  let kind := leField header 32 1
  let count := leField header 34 1
  { address, kind, notify := leField header 33 1 % 2 = 1, scatterCount := count,
    tag := BitVec.ofNat 32 (leField header 36 4),
    p0 := wordField header 40, p1 := wordField header 48, p2 := wordField header 56,
    scatter := fetchedScatter kind count scatter }

/-- The link field of a record header (R203). -/
def recordLink (header : List Byte) : Word := wordField header 24

/-! ### The profile block (R1, R2, R205, R207) -/

/-- Member state codes (R206). -/
def memberStateOfCode : Nat → Option MemberState
  | 1 => some .online
  | 2 => some .target
  | 3 => some .absent
  | _ => none

/-- Arbiter mode codes (R206). -/
def arbiterOfCode : Nat → Option ArbiterMode
  | 0 => some .orderFirst
  | 1 => some .sweepFirst
  | 2 => some .alternate
  | 3 => some .byUrgency
  | _ => none

/-- A budget clamped into [F, C] (R149, R160). -/
def clampInto (floor ceiling b : Nat) : Nat := max floor (min ceiling b)

/-- The pacing fields of a profile or order, in the order 19 to 25 (R1, R159). -/
structure PaceFields where
  kind : Nat
  floor : Nat
  ceiling : Nat
  low : Nat
  high : Nat
  initial : Nat
  window : Nat
deriving DecidableEq, Repr

/-- The first failing pacing field, by its profile index 19 to 25; B0 fails no check (R1, R159). -/
def paceFieldsFail (f : PaceFields) : Option Nat :=
  if 1 < f.kind then some 19
  else if ¬(1 ≤ f.floor ∧ f.floor ≤ 4095) then some 20
  else if ¬(f.floor ≤ f.ceiling ∧ f.ceiling ≤ 4095) then some 21
  else if 31 < f.low then some 22
  else if ¬(f.low + 1 ≤ f.high ∧ f.high ≤ 32) then some 23
  else if ¬(1 ≤ f.window ∧ f.window ≤ 255) then some 25
  else none

/-- A parameter set from accepted fields; B0 is clamped when the set is installed (R149). -/
def paceSet (f : PaceFields) : PaceSet :=
  { adaptive := f.kind = 1, floor := f.floor, ceiling := f.ceiling, low := f.low, high := f.high,
    initial := f.initial, window := f.window }

/-- The set with its B0 clamped into [F, C], as it is installed (R149, R150, R160). -/
def PaceSet.clamped (x : PaceSet) : PaceSet := { x with initial := clampInto x.floor x.ceiling x.initial }

/-- The pacing fields of a profile block (R205). -/
def profilePaceFields (b : List Byte) : PaceFields :=
  { kind := leField b 32 1, floor := leField b 36 2, ceiling := leField b 38 2, low := leField b 34 1,
    high := leField b 35 1, initial := leField b 40 2, window := leField b 33 1 }

/-- The first m entries of the slot-to-lane map (R205). -/
def profileLanes (b : List Byte) : List Nat :=
  (List.range (leField b 4 1)).map (fun i => leField b (48 + i) 1)

/-- The first m entries of the initial member state list, as codes (R205). -/
def profileStateCodes (b : List Byte) : List Nat :=
  (List.range (leField b 4 1)).map (fun i => leField b (72 + i) 1)

/-- The initial states accepted at index 7: every code names a state, at most one TARGET, at most two erasures (R1). -/
def initialStatesOk (codes : List Nat) : Bool :=
  codes.all (fun c => c = 1 || c = 2 || c = 3) && codes.count 2 ≤ 1 && codes.count 2 + codes.count 3 ≤ 2

/-- No two entries equal. -/
def allDistinct : List Nat → Bool
  | [] => true
  | x :: xs => !xs.contains x && allDistinct xs

/-- The first failing field of a profile block, by index (R2). -/
def profileFail (b : List Byte) : Option Nat :=
  let m := leField b 4 1
  let k := leField b 5 1
  let stripes := leField b 8 4
  let base := leField b 16 8
  let lanes := profileLanes b
  let pool := leField b 28 2
  if ¬(6 ≤ m ∧ m ≤ 24) then some 2
  else if ¬(k = 8 ∨ k = 16 ∨ k = 32 ∨ k = 64) then some 3
  else if stripes = 0 then some 4
  else if 2 ^ 64 < base + stripes * k then some 5
  else if !(lanes.all (· < 24) && allDistinct lanes) then some 6
  else if !initialStatesOk (profileStateCodes b) then some 7
  else if 1 < leField b 6 1 then some 8
  else if ¬(1 ≤ leField b 7 1 ∧ leField b 7 1 ≤ 4) then some 9
  else if ¬(1 ≤ leField b 12 1 ∧ leField b 12 1 ≤ 8) then some 10
  else if ¬(1 ≤ leField b 13 1 ∧ leField b 13 1 ≤ 3) then some 11
  else if ¬(1 ≤ leField b 24 2 ∧ leField b 24 2 ≤ 1000) then some 12
  else if 3 < leField b 14 1 then some 13
  else if ¬(1 ≤ leField b 15 1 ∧ leField b 15 1 ≤ 15) then some 14
  else if ¬(1 ≤ leField b 26 1 ∧ leField b 26 1 ≤ 8) then some 15
  else if 3 < leField b 27 1 then some 16
  else if ¬(64 ≤ pool ∧ pool ≤ 960 ∧ pool % 64 = 0) then some 17
  else paceFieldsFail (profilePaceFields b)

/-- The profile of a block that passed every check (R1, R205). -/
def profileOf (b : List Byte) : Profile :=
  { signature := leField b 0 4, m := leField b 4 1, k := leField b 5 1, stripes := leField b 8 4,
    base := leField b 16 8, lanes := profileLanes b,
    states := (profileStateCodes b).map (fun c => (memberStateOfCode c).getD .online),
    mend := leField b 6 1 = 1, sweepWindow := leField b 7 1, bandRows := leField b 12 1,
    retryPasses := leField b 13 1, timeout := leField b 24 2, requestRetries := leField b 14 1,
    absence := leField b 15 1, depth := leField b 26 1,
    arbiter := (arbiterOfCode (leField b 27 1)).getD .orderFirst, sweepPool := leField b 28 2,
    interval := leField b 30 2, pace := paceSet (profilePaceFields b) }

/-! ### The anchor block (R183, R205) -/

/-- The anchor block's fields. -/
structure Anchor where
  firstRecord : Word
  logAddress : Word
  logCapacity : Nat
  depth : Nat
  retryAddress : Word
  retryCapacity : Nat
  statusPage : Word
  levels : List Nat
deriving DecidableEq, Repr

/-- The anchor block (R205), with the depth and the levels as they are taken (R183). -/
def anchorOf (b : List Byte) : Anchor :=
  { firstRecord := wordField b 0, logAddress := wordField b 16, logCapacity := leField b 24 4,
    depth := max 1 (min 4 (leField b 28 1)), retryAddress := wordField b 32, retryCapacity := leField b 40 4,
    statusPage := wordField b 48, levels := (List.range 9).map (fun i => min 2 (leField b (56 + i) 1)) }

/-- The bind passes: no field misaligned, N within 16 to 65,535, the extension capacity within 65,535 (R183, R184). -/
def anchorOk (a : Anchor) : Bool :=
  aligned 64 a.logAddress && 16 ≤ a.logCapacity && a.logCapacity ≤ 65535 && a.retryCapacity ≤ 65535 &&
    (a.retryCapacity = 0 || aligned 16 a.retryAddress) && aligned 128 a.statusPage

/-! ### Retry extension entries (R129, R205, R207) -/

/-- Reason codes (R206). -/
def reasonOfCode : Nat → Option Reason
  | 1 => some .timeout
  | 2 => some .notReady
  | _ => none

/-- The entry a refill read, or none when it is an area fault: a stripe of S or above, an attempt that is neither 2 nor
3, or a reason without a code (R129). -/
def refillEntry (stripes : Nat) (b : List Byte) : Option RetryEntry :=
  let stripe := leField b 0 4
  let attempt := leField b 4 1
  match reasonOfCode (leField b 5 1) with
  | some reason =>
    if stripe < stripes ∧ (attempt = 2 ∨ attempt = 3) then some { stripe, attempt, reason, taken := none } else none
  | none => none

/-! ### Parameters packed in words (R203) -/

/-- Bits `low` to `low + width − 1` of a word. -/
def bitField (w : Word) (low width : Nat) : Nat := (w.toNat >>> low) % 2 ^ width

/-- The pacing fields of a SET PACE order (R203); the other bits are ignored (DESIGN CHOICE, log 69). -/
def setPaceFields (p0 p1 : Word) : PaceFields :=
  { kind := bitField p0 0 8, floor := bitField p0 8 16, ceiling := bitField p0 24 16, low := bitField p0 40 8,
    high := bitField p0 48 8, initial := bitField p1 0 16, window := bitField p0 56 8 }

/-- The RESTART flag of a SET PACE order (R203); the other bits are ignored (DESIGN CHOICE, log 69). -/
def setPaceRestart (p2 : Word) : Bool := bitField p2 0 1 = 1

end Sys2Proof.Machine
end

