-- ==== Sys2Proof/Machine/Ops.lean ====
section
/-! DEFINITION. Named reads and updates of the blocks' tables: Order Table entries, stripe contexts, Member Table records,
lanes and frames, each by number; and the way an order finishes (R193). -/

namespace Sys2Proof.Machine

/-! ### Lists by number -/

/-- Changes the element at a number, if there is one. -/
def modAt {α : Type} (f : α → α) : List α → Nat → List α
  | [], _ => []
  | a :: l, 0 => f a :: l
  | a :: l, i + 1 => a :: modAt f l i

/-- The lowest number at which a test holds. -/
def lowestIndex {α : Type} (test : α → Bool) : List α → Option Nat
  | [] => none
  | a :: l => if test a then some 0 else (lowestIndex test l).map (· + 1)

/-- The elements of `a` that are not in `b`. -/
def without (a b : List Nat) : List Nat := a.filter (fun x => !b.contains x)

/-- Runs of consecutive numbers of an increasing list, as (first, length). -/
def consecutiveRuns : List Nat → List (Nat × Nat)
  | [] => []
  | x :: xs =>
    match consecutiveRuns xs with
    | (y, n) :: rest => if x + 1 = y then (x, n + 1) :: rest else (x, 1) :: (y, n) :: rest
    | [] => [(x, 1)]

/-- A set of rows or slots as a bit field, with one more member (R202). -/
def setBit {w : Nat} (s : BitVec w) (i : Nat) : BitVec w := s ||| (1#w <<< i)

/-- A set as a bit field, with one member fewer. -/
def clearBit {w : Nat} (s : BitVec w) (i : Nat) : BitVec w := s &&& ~~~(1#w <<< i)

/-! ### Order Table -/

/-- The entry in use at a number. -/
def Part.entry? (p : Part) (e : Nat) : Option OrderEntry := p.table.entries.getD e none

/-- Changes an entry in use. -/
def Part.modEntry (p : Part) (e : Nat) (f : OrderEntry → OrderEntry) : Part :=
  p.onTable fun t => { t with entries := modAt (Option.map f) t.entries e }

/-- What an entry is doing becomes `w`. -/
def Part.setWork (p : Part) (e : Nat) (w : OrderWork) : Part := p.modEntry e fun x => { x with work := w }

/-- The progress record of an extent order past its checks (R165). -/
def Part.extent? (p : Part) (e : Nat) : Option Extent :=
  match p.entry? e with
  | some ⟨_, .extent x, _⟩ => some x
  | _ => none

/-- Changes an extent order's progress record. -/
def Part.modExtent (p : Part) (e : Nat) (f : Extent → Extent) : Part :=
  p.modEntry e fun x =>
    match x.work with
    | .extent g => { x with work := .extent (f g) }
    | _ => x

/-- Changes an extent order's band. -/
def Part.modBand (p : Part) (e : Nat) (f : OrderBand → OrderBand) : Part :=
  p.modExtent e fun x => { x with band := x.band.map f }

/-- Changes the band's work on a row. -/
def Part.modRow (p : Part) (e row : Nat) (f : RowWork → RowWork) : Part :=
  p.modBand e fun b => { b with rows := b.rows.map fun r => if r.row = row then f r else r }

/-- The band's work on a row. -/
def OrderBand.row? (b : OrderBand) (row : Nat) : Option RowWork := b.rows.find? (fun r => r.row = row)

/-- The kind code of an entry in use. -/
def Part.kindOf (p : Part) (e : Nat) : Option Nat := (p.entry? e).map (·.record.kind)

/-- What an entry in use is doing. -/
def Part.workOf (p : Part) (e : Nat) : Option OrderWork := (p.entry? e).map (·.work)

/-- The entries in use, by number. -/
def Part.entriesInUse (p : Part) : List Nat := (List.range 32).filter (fun e => (p.entry? e).isSome)

/-- The backlog: the READ EXTENT and WRITE EXTENT orders in the Order Table (R153, R190). -/
def Part.backlog (p : Part) : Nat :=
  (p.table.entries.filter (fun x =>
    match x with
    | some y => y.record.kind = 0x01 || y.record.kind = 0x02
    | none => false)).length

/-! ### Values the spec leaves open -/

/-- Moves the model's own counter on, so that the next open value is another (log 9). -/
def Part.spend (p : Part) : Part := p.onFreeCount (· + 1)

/-! ### An order finishes (R193) -/

/-- Status codes (R203). -/
def Status.code : Status → Nat
  | .ok => 1
  | .recovered => 2
  | .dataLost => 3
  | .invalid => 4
  | .outOfRange => 5
  | .busy => 6
  | .noProfile => 7
  | .arrayFailed => 8
  | .bufferFault => 9
  | .hostMemoryFault => 10
  | .noCheckpoint => 11
  | .mismatch => 12
  | .checkpointFailed => 13

/-- The completion word: the status code in bits 0 to 7 and the record's tag in bits 32 to 63 (R204). -/
def completionWord (status : Status) (tag : BitVec 32) : Word := BitVec.ofNat 64 (status.code + tag.toNat * 2 ^ 32)

/-- An aligned write of one 8-byte word (R204). -/
def wordWrite (address value : Word) : HostWrite := { address, bytes := leBytes 8 value.toNat }

/-- The writes of detail A and detail B into a record: bytes 8 and 16 (R193, R203). -/
def OrderRecord.detailWrites (r : OrderRecord) (a b : Word) : List HostWrite :=
  [wordWrite (r.address + 8) a, wordWrite (r.address + 16) b]

/-- The write of the completion word into a record: byte 0, with the record's tag (R193, R203, R204). -/
def OrderRecord.completionWrite (r : OrderRecord) (status : Status) : HostWrite :=
  wordWrite r.address (completionWord status r.tag)

/-- An entry in use takes its work and the writes that begin with it. -/
def Part.setWriting (p : Part) (e : Nat) (w : OrderWork) (writes : OrderRecord → List HostWrite) : Part :=
  p.modEntry e fun x => { x with work := w, writes := writes x.record }

/-- The owner reports the order finished with a status and its two details: the entry becomes COMPLETING and the detail
words are written. A detail no rule gives is an open value (log 5). -/
def finishOrder (e : Nat) (status : Status) (a b : Option Word) (p : Part) : Part :=
  let da := a.getD (Config.openDetail (2 * p.freeCount))
  let db := b.getD (Config.openDetail (2 * p.freeCount + 1))
  (p.setWriting e (.completing status da db false) fun r => r.detailWrites da db).spend

/-- A detail word from a number. -/
def detail (n : Nat) : Option Word := some (BitVec.ofNat 64 n)

/-! ### Contexts, members, lanes, frames -/

/-- The context in a window place. -/
def Part.context? (p : Part) (place : Nat) : Option Context := p.sweep.window.getD place none

/-- Changes the context in a window place. -/
def Part.modContext (p : Part) (place : Nat) (f : Context → Context) : Part :=
  p.onSweep fun s => { s with window := modAt (Option.map f) s.window place }

/-- The window place is given up. -/
def Part.dropContext (p : Part) (place : Nat) : Part :=
  p.onSweep fun s => { s with window := modAt (fun _ => none) s.window place }

/-- Changes the sweep band of the context in a place. -/
def Part.modSweepBand (p : Part) (place : Nat) (f : SweepBand → SweepBand) : Part :=
  p.modContext place fun c => { c with band := c.band.map f }

/-- The places that hold a context, in increasing order. -/
def Part.places (p : Part) : List Nat := (List.range 4).filter (fun i => (p.context? i).isSome)

/-- A Member Table record. -/
def Part.member (p : Part) (slot : Nat) : Member := p.geometry.members.getD slot Member.unmappedRecord

/-- Changes a Member Table record. -/
def Part.modMember (p : Part) (slot : Nat) (f : Member → Member) : Part :=
  p.onGeometry fun g => { g with members := modAt f g.members slot }

/-- A lane. -/
def Part.lane (p : Part) (l : Nat) : Lane := p.lanes.getD l Lane.initial

/-- Changes a lane. -/
def Part.modLane (p : Part) (l : Nat) (f : Lane → Lane) : Part := p.onLanes fun ls => modAt f ls l

/-- A frame. -/
def Part.frame (p : Part) (i : Nat) : Frame := p.buffer.frames.getD i Frame.initial

/-- Changes a frame. -/
def Part.modFrame (p : Part) (i : Nat) (f : Frame → Frame) : Part :=
  p.onBuffer fun b => { b with frames := modAt f b.frames i }

end Sys2Proof.Machine
end

