-- ==== Sys2Proof/Machine/Flags.lean ====
section
/-! DEFINITION. The part's flags: alert causes, their levels and the attention output (R198 to R200), latched conditions
(R197), halt causes (R117), and the bits they take in registers and words (R206). -/

namespace Sys2Proof.Machine

/-- A cause's bit: one below its priority (R198, R206). -/
def Cause.bit : Cause → Nat
  | .arrayFailed => 0
  | .bufferParity => 1
  | .retryOverflow => 2
  | .chainFault => 3
  | .logFault => 4
  | .memberDown => 5
  | .sweepHalted => 6
  | .checkpointFault => 7
  | .logFull => 8
  | .retrySpill => 9
  | .sweepDone => 10
  | .orderNotify => 11

/-- A latched condition's bit (R206). -/
def Condition.bit : Condition → Nat
  | .chainFault => 0
  | .logFault => 1
  | .bufferParity => 2
  | .retryOverflow => 3
  | .spareFault => 4
  | .checkpointFault => 5

/-- A halt cause's bit (R206). -/
def HaltCause.bit : HaltCause → Nat
  | .spareFault => 0
  | .bufferParity => 1
  | .retryOverflow => 2
  | .arrayFailed => 3

/-- The level of the cause of a bit: 3 for the first three, an anchor level for the others (R198). -/
def AlertUnit.level (a : AlertUnit) (bit : Nat) : Nat := if bit < 3 then 3 else a.levels.getD (bit - 3) 0

/-- A cause qualifies when its level is 3 or greater than the mask level (R200). -/
def AlertUnit.qualifies (a : AlertUnit) (bit : Nat) : Bool := a.level bit = 3 || a.mask < a.level bit

/-- The pending causes, by bit. -/
def AlertUnit.pendingBits (a : AlertUnit) : List Nat := (List.range 12).filter (fun i => a.pending.getLsbD i)

/-- The top cause of a list in priority order: the first of the highest level (R199). -/
def topOf (a : AlertUnit) : List Nat → Option Nat
  | [] => none
  | b :: bs =>
    match topOf a bs with
    | some t => if a.level b < a.level t then some t else some b
    | none => some b

/-- The top cause's code: its priority, or 0 for none (R199, R206). -/
def AlertUnit.topCode (a : AlertUnit) : Nat :=
  match topOf a a.pendingBits with
  | some b => b + 1
  | none => 0

/-- The attention output by the mode: in LEVEL, asserted while a pending cause qualifies; in PULSE, deasserted (R200). -/
def AlertUnit.output (a : AlertUnit) : Bool := !a.pulseMode && a.pendingBits.any a.qualifies

/-- A cause is raised: it becomes or stays pending, and in PULSE mode one that qualifies and was not pending gives a
pulse (R198, R200). -/
def AlertUnit.raise (a : AlertUnit) (c : Cause) : AlertUnit :=
  let pulse := a.pulseMode && !a.pending.getLsbD c.bit && a.qualifies c.bit
  { a with pending := setBit a.pending c.bit, pulses := if pulse then a.pulses + 1 else a.pulses }

/-- The Alert Unit is given a cause. -/
def raiseCause (c : Cause) (p : Part) : Part := p.onAlerts (·.raise c)

/-- A condition is latched; latching it again leaves it latched once (R197). -/
def latch (c : Condition) (p : Part) : Part := p.onAlerts fun a => { a with latched := setBit a.latched c.bit }

/-- The condition is latched. -/
def Part.isLatched (p : Part) (c : Condition) : Bool := p.alerts.latched.getLsbD c.bit

/-- REFUSED is set (R196). -/
def setRefused (p : Part) : Part := p.onRegs fun r => { r with refused := true }

/-- The halt set holds the cause (R117). -/
def Part.haltSetHas (p : Part) (c : HaltCause) : Bool := p.sweep.haltSet.getLsbD c.bit

end Sys2Proof.Machine
end

