-- ==== Sys2Proof/Machine/Geometry.lean ====
section
/-! DEFINITION. The Geometry Unit's arithmetic: address mapping and roles (R7, R8), the erasure count and the array
condition (R15), and the counters of the Member Table (R9). -/

namespace Sys2Proof.Machine

/-! ### Address mapping -/

/-- n = m − 2 (R1). -/
def Profile.n (g : Profile) : Nat := g.m - 2

/-- Blocks of one stripe, n·k (R1). -/
def Profile.stripeBlocks (g : Profile) : Nat := g.n * g.k

/-- Blocks of the array, S·n·k (R1). -/
def Profile.arrayBlocks (g : Profile) : Nat := g.stripes * g.stripeBlocks

/-- The stripe of an array block address (R7). -/
def Profile.stripeOf (g : Profile) (b : Nat) : Nat := b / g.stripeBlocks

/-- The data index of an array block address (R7). -/
def Profile.dataIndexOf (g : Profile) (b : Nat) : Nat := b % g.stripeBlocks / g.k

/-- The row of an array block address (R7). -/
def Profile.rowOf (g : Profile) (b : Nat) : Nat := b % g.k

/-- The P slot of a stripe (R7). -/
def Profile.pSlot (g : Profile) (s : Nat) : Nat := g.m - 1 - s % g.m

/-- The Q slot of a stripe (R7). -/
def Profile.qSlot (g : Profile) (s : Nat) : Nat := (g.pSlot s + 1) % g.m

/-- The slot of a data index in a stripe (R7). -/
def Profile.dataSlot (g : Profile) (s i : Nat) : Nat := (g.qSlot s + 1 + i) % g.m

/-- The member LBA of a row of a stripe (R7). -/
def Profile.lba (g : Profile) (s r : Nat) : Nat := g.base + s * g.k + r

/-- The array block address of data index d, row r of stripe s: the inverse of R7. -/
def Profile.blockAt (g : Profile) (s d r : Nat) : Nat := s * g.stripeBlocks + d * g.k + r

/-- A slot's role in a stripe (R8). -/
inductive Role where
  | p | q
  | data (index : Nat)
deriving DecidableEq, Repr

/-- The role of slot t in stripe s; (t − Q slot − 1) mod m is taken non-negative (R8). -/
def Profile.role (g : Profile) (s t : Nat) : Role :=
  if t = g.pSlot s then .p
  else if t = g.qSlot s then .q
  else .data ((t + 2 * g.m - g.qSlot s - 1) % g.m)

/-- The slots 0 to m − 1. -/
def Profile.slots (g : Profile) : List Nat := List.range g.m

/-! ### Member states and the array condition -/

/-- The erasure count e: members ABSENT or TARGET (R15). -/
def Part.erasures (p : Part) : Nat :=
  (p.geometry.members.filter (fun x => x.state = .absent || x.state = .target)).length

/-- The array condition; FAILED is sticky (R15). -/
def Part.condition (p : Part) : ArrayCondition :=
  if p.geometry.failed then .failed
  else
    match p.erasures with
    | 0 => .whole
    | 1 => .single
    | 2 => .double
    | _ => .failed

/-- The slot that is TARGET, if any. -/
def Part.targetSlot (p : Part) : Option Nat := lowestIndex (fun x => x.state = .target) p.geometry.members

/-- The member is ABSENT. -/
def Part.isAbsent (p : Part) (slot : Nat) : Bool := (p.member slot).state = .absent

/-- The slot mapped to a lane, if any (R1, R9). -/
def Part.slotOfLane (p : Part) (lane : Nat) : Option Nat :=
  lowestIndex (fun x => x.state != .unmapped && x.lane = lane) p.geometry.members

/-- The array becomes or stays FAILED when e reaches 3 (R15). -/
def deriveFailed (p : Part) : Part := p.onGeometry fun g => { g with failed := g.failed || 3 ≤ p.erasures }

/-- The Geometry Unit is LOADING (R3). -/
def Part.loading (p : Part) : Bool := p.geometry.load.isSome

/-! ### Counters (R9) -/

/-- One more, saturating at 65,535. -/
def saturate (n : Nat) : Nat := min 65535 (n + 1)

/-- A medium error on a slot's member (R69, R79). -/
def countMedium (slot : Nat) (p : Part) : Part := p.modMember slot fun x => { x with medium := saturate x.medium }

/-- A trailer mismatch on a slot's member (R21). -/
def countTrailer (slot : Nat) (p : Part) : Part := p.modMember slot fun x => { x with trailers := saturate x.trailers }

/-- A request timeout on a slot's member: its consecutive timeouts go no further than the absence threshold (R9, R72). -/
def countTimeout (slot absence : Nat) (p : Part) : Part :=
  p.modMember slot fun x =>
    { x with timeouts := saturate x.timeouts, consecutive := min absence (x.consecutive + 1) }

/-- A GOOD answer sets the consecutive timeouts to 0 (R68). -/
def clearConsecutive (slot : Nat) (p : Part) : Part := p.modMember slot fun x => { x with consecutive := 0 }

/-- CLEAR COUNTERS (R14). -/
def clearCounters (slot : Nat) (p : Part) : Part :=
  p.modMember slot fun x => { x with medium := 0, timeouts := 0, trailers := 0, consecutive := 0 }

/-! ### Codes (R206) -/

def MemberState.code : MemberState → Nat
  | .unmapped => 0
  | .online => 1
  | .target => 2
  | .absent => 3

def ArrayCondition.code : ArrayCondition → Nat
  | .whole => 1
  | .single => 2
  | .double => 3
  | .failed => 4

/-- The condition's code: 0 with no profile (R206). -/
def Part.conditionCode (p : Part) : Nat := if p.geometry.profile.isSome then p.condition.code else 0

end Sys2Proof.Machine
end

