-- ==== Sys2Proof/Machine/Retry.lean ====
section
/-! DEFINITION. The Retry List (8.1 to 8.5): placing joins, taking, removing and moving entries, refills, emptying, and
the two answers it gives its neighbours. -/

namespace Sys2Proof.Machine

/-- A refill read is in flight, with its RESERVED place (R129). -/
def RetryList.refilling (r : RetryList) : Bool :=
  match r.busy with
  | .refill _ => true
  | _ => false

/-- A join write is in flight (R124). -/
def RetryList.joinWriting (r : RetryList) : Bool :=
  match r.busy with
  | .join _ _ => true
  | _ => false

/-- The FREE on-chip places (R124). -/
def RetryList.freePlaces (r : RetryList) : Nat := 32 - r.onChip.length - (if r.refilling then 1 else 0)

/-- The extension counts as not empty (R124). -/
def RetryList.extensionInUse (r : RetryList) : Bool := 0 < r.count || r.joinWriting

/-- No entry on-chip or in the extension (R113). -/
def RetryList.isEmpty (r : RetryList) : Bool := r.onChip = [] && r.count = 0

/-- The entry taken by the context in a place. -/
def RetryList.takenBy (r : RetryList) (place : Nat) : Option RetryEntry := r.onChip.find? (fun e => e.taken = some place)

/-- The entries other than the one taken by a place. -/
def RetryList.withoutTaken (r : RetryList) (place : Nat) : List RetryEntry := r.onChip.filter (fun e => e.taken ≠ some place)

/-- The entry a join places on-chip: untaken (R126). -/
def Join.entry (j : Join) : RetryEntry := { stripe := j.stripe, attempt := j.attempt, reason := j.reason, taken := none }

/-- A join is placed on-chip at once, or none when it is written to the extension (R126). -/
def RetryList.placeOnChip (r : RetryList) (j : Join) : Option RetryList :=
  if r.extensionInUse || r.refilling then none
  else if j.move && (r.takenBy j.place).isSome then some { r with onChip := r.withoutTaken j.place ++ [j.entry] }
  else if 0 < r.freePlaces then some { r with onChip := r.onChip ++ [j.entry] }
  else none

/-- The spilled range with one more stripe; a count of 0 starts it anew (R126). -/
def RetryList.widen (r : RetryList) (stripe : Nat) : Option (Nat × Nat) :=
  match r.count, r.range with
  | 0, _ => some (stripe, stripe)
  | _, some (low, high) => some (min low stripe, max high stripe)
  | _, none => some (stripe, stripe)

/-- Reason codes (R206). -/
def Reason.code : Reason → Nat
  | .timeout => 1
  | .notReady => 2

/-- The code of a reason that may be missing: 0 for none (R206). -/
def reasonCode : Option Reason → Nat
  | none => 0
  | some r => r.code

/-- The 16 bytes a join writes to the extension (R205). -/
def Join.bytes (j : Join) : List Byte :=
  leBytes 4 j.stripe ++ leBytes 1 j.attempt ++ leBytes 1 j.reason.code ++ List.replicate 10 0

/-- A join's write begins at the tail of the extension (R126). -/
def RetryList.beginJoin (r : RetryList) (j : Join) : RetryList :=
  { r with busy := .join j false,
           write := some { address := r.address + BitVec.ofNat 64 (16 * r.tail), bytes := j.bytes } }

/-- A join write has ended without fault: the join is accepted (R126). -/
def RetryList.accept (r : RetryList) (j : Join) : RetryList :=
  { r with
    busy := .idle, write := none, tail := (r.tail + 1) % r.capacity, count := r.count + 1,
    range := r.widen j.stripe, spilled := true,
    onChip := if j.move then r.withoutTaken j.place else r.onChip }

/-- The oldest untaken entry is marked taken by a place (R128). -/
def takeOldest (place : Nat) : List RetryEntry → Option (RetryEntry × List RetryEntry)
  | [] => none
  | e :: es =>
    match e.taken with
    | none => some (e, { e with taken := some place } :: es)
    | some _ => (takeOldest place es).map (fun x => (x.1, e :: x.2))

/-- A refill may begin, but for the conditions of the engine (R129): a FREE place, an entry in the extension, no DMA on
it, no latched area fault. -/
def RetryList.canRefill (r : RetryList) (latched : Bool) : Bool :=
  0 < r.freePlaces && 0 < r.count && r.busy = .idle && !(latched && r.detail = .areaFault)

/-- A refill read has ended with an entry (R129). -/
def RetryList.refill (r : RetryList) (e : RetryEntry) : RetryList :=
  { r with busy := .idle, onChip := r.onChip ++ [e], head := (r.head + 1) % r.capacity, count := r.count - 1,
           range := if r.count - 1 = 0 then none else r.range }

/-- Emptying (R132): every entry goes, the extension is disregarded, a DMA in flight is let end and its result
discarded. -/
def RetryList.emptied (r : RetryList) : RetryList :=
  { r with onChip := [], head := 0, tail := 0, count := 0, range := none, joins := [],
           busy := match r.busy with
             | .idle => .idle
             | .join j _ => .join j true
             | .refill _ => .refill true }

/-- START SWEEP clears the sticky flags after the emptying; the overflow detail is kept while RETRY_OVERFLOW is latched
(R99, R132). -/
def RetryList.startSweep (r : RetryList) (latched : Bool) : RetryList :=
  { r.emptied with spilled := false, overflow := false, detail := if latched then r.detail else .none }

/-- A new area is installed (R131). -/
def RetryList.install (r : RetryList) (address : Word) (capacity : Nat) : RetryList :=
  { r with address, capacity, head := 0, tail := 0, count := 0, range := none }

/-- The list holds a stripe, for the rebuilt query (R122, R130). -/
def RetryList.holdsStripe (r : RetryList) (s : Nat) : Bool :=
  r.onChip.any (fun e => e.stripe = s) ||
    (r.extensionInUse &&
      (match r.range with
       | some (low, high) => low ≤ s && s ≤ high
       | none => false))

/-- The smaller of two numbers that may be missing. -/
def minOption : Option Nat → Option Nat → Option Nat
  | none, b => b
  | a, none => a
  | some a, some b => some (min a b)

/-- The lowest stripe on-chip. -/
def lowestStripe : List RetryEntry → Option Nat
  | [] => none
  | e :: es => minOption (some e.stripe) (lowestStripe es)

/-- The retry floor (R130). -/
def RetryList.floor (r : RetryList) : Option Nat :=
  minOption (lowestStripe r.onChip) (if r.extensionInUse then r.range.map (·.1) else none)

/-- Overflow detail codes (R206). -/
def OverflowDetail.code : OverflowDetail → Nat
  | .none => 0
  | .full => 1
  | .areaFault => 2

end Sys2Proof.Machine
end

