-- ==== Sys2Proof/Machine/Checkpoint.lean ====
section
/-! DEFINITION. The Checkpoint Store (chapter 9): slots, the record of a write, and requests. -/

namespace Sys2Proof.Machine

/-! ### Slots (R139, R208) -/

def slotHead (b : List Byte) : Nat := leField b 0 4
def slotSignature (b : List Byte) : Nat := leField b 4 4
def slotM (b : List Byte) : Nat := leField b 8 1
def slotK (b : List Byte) : Nat := leField b 9 1
def slotTarget (b : List Byte) : Nat := leField b 10 1
def slotState (b : List Byte) : Nat := leField b 11 1
def slotStripes (b : List Byte) : Nat := leField b 12 4
def slotResume (b : List Byte) : Nat := leField b 16 4
def slotTail (b : List Byte) : Nat := leField b 252 4

/-- State codes of a record (R206). -/
def codeActive : Nat := 1
def codeDone : Nat := 2
def codeAbandoned : Nat := 3

/-- A slot is valid: head and tail generations agree and the state is one of the three (R139). -/
def slotValid (b : List Byte) : Bool := slotHead b = slotTail b && 1 ≤ slotState b && slotState b ≤ 3

/-- One generation is one greater than another, modulo 2^32 (R139). -/
def generationAfter (g h : Nat) : Bool := g = (h + 1) % 2 ^ 32

/-- The bytes of a slot. -/
def CheckpointStore.slot (c : CheckpointStore) (i : Nat) : List Byte := c.slots.getD i []

/-- The current slot (R139). -/
def CheckpointStore.current (c : CheckpointStore) : Option Nat :=
  let g0 := slotHead (c.slot 0)
  let g1 := slotHead (c.slot 1)
  match slotValid (c.slot 0), slotValid (c.slot 1) with
  | false, false => none
  | true, false => some 0
  | false, true => some 1
  | true, true =>
    if generationAfter g0 g1 then some 0
    else if generationAfter g1 g0 then some 1
    else if g0 < g1 then some 1
    else some 0

/-! ### Records -/

/-- The state a write records, or none in IDLE and STARTING, where no write begins (R140). -/
def recordedState : SweepState → Option Nat
  | .idle => none
  | .starting => none
  | .finishing => some codeDone
  | .done => some codeDone
  | .abandoning => some codeAbandoned
  | .sweeping => some codeActive
  | .retrying => some codeActive
  | .pausing => some codeActive
  | .paused => some codeActive
  | .halting => some codeActive
  | .halted => some codeActive

/-- The resume point: the smaller of W and the retry floor (R141). -/
def Part.resumePoint (p : Part) : Nat :=
  match p.retry.floor with
  | some f => min p.sweep.watermark f
  | none => p.sweep.watermark

/-- Bytes with the offsets they are written at. -/
def bytesAt : Nat → List Byte → List (Nat × Byte)
  | _, [] => []
  | offset, b :: bs => (offset, b) :: bytesAt (offset + 1) bs

/-- A record's byte writes in the order of R142: head generation; signature, m, S, k, target slot, resume point and
state; tail generation last. Within a field the least significant byte is written first, and the reserved bytes, written 0
(R208), come after the state and before the tail (DESIGN CHOICE, log 56). -/
def recordWrites (generation : Nat) (g : Profile) (target resume code : Nat) : List (Nat × Byte) :=
  bytesAt 0 (leBytes 4 generation) ++
  bytesAt 4 (leBytes 4 g.signature) ++ bytesAt 8 (leBytes 1 g.m) ++ bytesAt 12 (leBytes 4 g.stripes) ++
  bytesAt 9 (leBytes 1 g.k) ++ bytesAt 10 (leBytes 1 target) ++ bytesAt 16 (leBytes 4 resume) ++
  bytesAt 11 (leBytes 1 code) ++ bytesAt 20 (List.replicate 232 0) ++
  bytesAt 252 (leBytes 4 generation)

/-- The writes of a record that come before its tail generation (R142 step 5). -/
def bodyWrites : Nat := 252

/-- Byte writes reach a slot. -/
def applyWrites (slot : List Byte) (ws : List (Nat × Byte)) : List Byte := ws.foldl (fun b w => b.set w.1 w.2) slot

/-- At least the first `n` byte writes of the write in flight have taken (R142, R146). -/
def CheckpointStore.takeTo (c : CheckpointStore) (n : Nat) : CheckpointStore :=
  match c.write with
  | none => c
  | some w =>
    if n ≤ w.taken then c
    else
      { c with slots := modAt (fun b => applyWrites b ((w.writes.take n).drop w.taken)) c.slots w.slot,
               write := some { w with taken := n } }

/-! ### Requests (R142, R143) -/

/-- A write begins (R142): both slots are read, the record is fixed, and every waiter waits for this write. -/
def beginStoreWrite (p : Part) : Part :=
  match p.geometry.profile, recordedState p.sweep.state with
  | some g, some code =>
    let current := p.store.current
    let generation :=
      match current with
      | some i => (slotHead (p.store.slot i) + 1) % 2 ^ 32
      | none => 1
    let slot :=
      match current with
      | some i => 1 - i
      | none => 0
    let resume := p.resumePoint
    let writes := recordWrites generation g (p.store.target.getD 0) resume code
    p.onStore fun c =>
      { c with write := some { slot, generation, resume, code, writes, taken := 0 }, again := false,
               waiters := c.waiters.map (fun w => { w with late := false }),
               sweepWait := c.sweepWait.map (fun _ => false) }
  | _, _ => p

/-- A checkpoint request (R143). -/
def requestCheckpoint (p : Part) : Part :=
  if p.store.write.isSome then p.onStore fun c => { c with again := true }
  else if p.isLatched .checkpointFault then p.onStore fun c => { c with again := true }
  else beginStoreWrite p

/-- The sweep's own request on entering FINISHING or ABANDONING, for whose write it waits (R120, R121, R143). -/
def requestSweepCheckpoint (p : Part) : Part :=
  requestCheckpoint (p.onStore fun c => { c with sweepWait := some c.write.isSome })

/-- A CHECKPOINT NOW order's request; the order joins the waiters (R144). -/
def requestOrderCheckpoint (e : Nat) (p : Part) : Part :=
  requestCheckpoint (p.onStore fun c => { c with waiters := c.waiters ++ [{ entry := e, late := c.write.isSome }] })

/-- No write is in flight and none can begin (R120, R121, R145). -/
def Part.storeStuck (p : Part) : Bool := p.store.write.isNone && p.isLatched .checkpointFault

end Sys2Proof.Machine
end

