-- ==== Sys2Proof/Machine/Findings.lean ====
section
/-! DEFINITION. The Findings Writer (8.6, 8.7): staging, reservations, and the log's fullness and entries. -/

namespace Sys2Proof.Machine

/-- r: the staging reservations, which the contexts hold (R133). -/
def Part.reservations (p : Part) : Nat :=
  (p.sweep.window.filter (fun c =>
    match c with
    | some x => x.reserved
    | none => false)).length

/-- u: the staging entries that hold findings (R133). -/
def Part.stagedCount (p : Part) : Nat := p.findings.staged.length

/-- A reservation can be granted: 8 − u − r is at least 1 (R133). -/
def Part.stagingFree (p : Part) : Bool := p.stagedCount + p.reservations < 8

/-- The finding of a context (R109, R134). -/
def Context.finding (c : Context) : Finding :=
  { stripe := c.stripe, pass := c.source, attempt := c.attempt, lostRows := c.lostRows, mendedRows := c.mendedRows,
    mendFailed := c.mendFailed, involved := c.involved, deferral := c.deferral }

/-- The context has something to report (R109 step 2). -/
def Context.hasFinding (c : Context) : Bool :=
  c.lostRows != 0 || c.mendedRows != 0 || c.mendFailed || c.deferral.isSome

/-- The kind flags (R134, R206). -/
def Finding.flags (f : Finding) : Nat :=
  (if f.lostRows = 0 then 0 else 1) + (if f.mendedRows = 0 then 0 else 2) + (if f.mendFailed then 4 else 0) +
    (if f.deferral.isSome then 8 else 0)

/-- Pass codes (R206). -/
def Pass.code : Pass → Nat
  | .main => 0
  | .retry => 1

/-- The 56 body bytes of a log entry (R208). -/
def Finding.body (f : Finding) : List Byte :=
  leBytes 4 f.stripe ++ leBytes 1 f.pass.code ++ leBytes 1 f.attempt ++ leBytes 1 (reasonCode f.deferral) ++ [0] ++
    leBytes 8 f.lostRows.toNat ++ leBytes 8 f.mendedRows.toNat ++ leBytes 4 f.involved.toNat ++ List.replicate 28 0

/-- The header word of a log entry (R208). -/
def Finding.header (f : Finding) (sequence : Nat) : List Byte :=
  leBytes 4 sequence ++ leBytes 1 f.flags ++ List.replicate 3 0

/-- The log address taken from the anchor (R135). -/
def Findings.logAddress (f : Findings) : Word := (f.area.map (·.1)).getD 0

/-- The address of the log entry at an index (R135). -/
def logEntryAddress (log : Word) (index : Nat) : Word := log + BitVec.ofNat 64 (64 * index)

/-- The finding at the staging head is written: first its body, bytes 8 to 63 of the entry at the write index (R135 step
2, R136). -/
def Findings.beginBody (f : Findings) : Findings :=
  { f with writer := .body, episode := false,
           write := f.staged.head?.map fun x =>
             { address := logEntryAddress f.logAddress f.writeIndex + 8, bytes := x.body } }

/-- The body has been written: the header word follows at the entry's first byte, with the sequence number and the kind
flags (R135 step 3). -/
def Findings.beginHeader (f : Findings) : Findings :=
  { f with writer := .header,
           write := f.staged.head?.map fun x =>
             { address := logEntryAddress f.logAddress f.writeIndex, bytes := x.header f.sequence } }

/-- LOG_TAKEN as it is read and tested: reduced mod N once N is known (R136, R195). -/
def Part.logTaken (p : Part) : Nat :=
  match p.findings.area with
  | some (_, n) => p.regs.logTaken.toNat % n
  | none => p.regs.logTaken.toNat

/-- The log is full: (write index − LOG_TAKEN) mod N equals N − 1 (R136). -/
def Part.logFull (p : Part) : Bool :=
  match p.findings.area with
  | some (_, n) => (p.findings.writeIndex + n - p.logTaken) % n = n - 1
  | none => false

/-- The sequence number after one (R135). -/
def nextSequence (n : Nat) : Nat := if n = 4294967295 then 1 else n + 1

/-- A header write has ended without fault (R135 step 4). -/
def Findings.written (f : Findings) : Findings :=
  { f with staged := f.staged.drop 1, writer := .idle, write := none, lastSequence := f.sequence,
           sequence := nextSequence f.sequence,
           writeIndex := match f.area with
             | some (_, n) => (f.writeIndex + 1) % n
             | none => f.writeIndex }

end Sys2Proof.Machine
end

