-- ==== Sys2Proof/Machine/Parity.lean ====
section
/-! DEFINITION. The Parity Unit's arithmetic: the field GF(2^8) (R31 to R33), P and Q (R34), reconstruction (R35 to R42),
the write computations (R43 to R45), and sector trailers (R18 to R23). -/

namespace Sys2Proof.Machine

/-! ### The field -/

/-- Multiplication by g = 0x02, reduced by 0x11D (R32). -/
def gfDouble (a : Byte) : Byte := if a.getLsbD 7 then (a <<< 1) ^^^ 0x1D#8 else a <<< 1

/-- The product over the low `n` bits of the second factor: shifted copies of the first, added (R32). -/
def gfMulBits : Nat → Byte → Byte → Byte
  | 0, _, _ => 0
  | n + 1, a, b => (if b.getLsbD 0 then a else 0) ^^^ gfMulBits n (gfDouble a) (b >>> 1)

/-- The product of two elements: multiplication of polynomials modulo 0x11D (R32). -/
def gfMul (a b : Byte) : Byte := gfMulBits 8 a b

/-- g^i (R32). -/
def gfPow : Nat → Byte
  | 0 => 1
  | n + 1 => gfDouble (gfPow n)

/-- `n` successive powers of g from a given one. -/
def powersFrom : Nat → Byte → List Byte
  | 0, _ => []
  | n + 1, a => a :: powersFrom n (gfDouble a)

/-- The antilogarithm table: entry i holds g^i for i = 0 to 254, and entry 255 holds 0x01 (R33). -/
def antilogTable : List Byte := powersFrom 255 1 ++ [1]

/-- Entry i of the antilogarithm table (R33). -/
def antilog (i : Nat) : Byte := antilogTable.getD i 0

/-- Entry v of the logarithm table: the exponent e, 0 to 254, with g^e = v; entry 0 is not consulted (R33). -/
def logOf (v : Byte) : Nat := (lowestIndex (fun x => x = v) (powersFrom 255 1)).getD 0

/-- The product as the Parity Unit forms it, through the tables (R33). -/
def gfMulTable (a b : Byte) : Byte :=
  if a = 0 ∨ b = 0 then 0 else antilog ((logOf a + logOf b) % 255)

/-- The inverse of a nonzero element (R33). -/
def gfInv (a : Byte) : Byte := antilog ((255 - logOf a) % 255)

/-! ### Blocks -/

/-- A block of 4,096 zero bytes. -/
def zeroBlock : Block := List.replicate 4096 0

/-- The sum of two blocks, byte by byte (R31). -/
def addBlocks (a b : Block) : Block := List.zipWith (· ^^^ ·) a b

/-- A block with every byte multiplied by a coefficient. -/
def scaleBlock (c : Byte) (b : Block) : Block := b.map (gfMul c)

/-- The sum of blocks, each weighted (R34). -/
def weightedSum : List (Byte × Block) → Block
  | [] => zeroBlock
  | (c, b) :: rest => addBlocks (scaleBlock c b) (weightedSum rest)

/-- The plain sum of blocks (R34). -/
def plainSum : List Block → Block
  | [] => zeroBlock
  | b :: rest => addBlocks b (plainSum rest)

/-- P of a row's data blocks (R34). -/
def parityP (data : List Block) : Block := plainSum data

/-- Data blocks with their Q coefficients, from data index `i` on (R34). -/
def weighted : Nat → List Block → List (Byte × Block)
  | _, [] => []
  | i, b :: rest => (gfPow i, b) :: weighted (i + 1) rest

/-- Q of a row's data blocks, in order of data index (R34). -/
def parityQ (data : List Block) : Block := weightedSum (weighted 0 data)

/-! ### Reconstruction -/

/-- A row as a reconstruction job sees it: its data blocks in order of data index, and P and Q; none where erased
(R36). -/
structure RowView where
  data : List (Option Block)
  p : Option Block
  q : Option Block
deriving DecidableEq, Repr

/-- A whole row: data, P and Q. -/
structure RowBlocks where
  data : List Block
  p : Block
  q : Block
deriving DecidableEq, Repr

/-- The usable data blocks with their data indices. -/
def usableFrom : Nat → List (Option Block) → List (Nat × Block)
  | _, [] => []
  | i, some b :: rest => (i, b) :: usableFrom (i + 1) rest
  | i, none :: rest => usableFrom (i + 1) rest

/-- The erased data indices. -/
def erasedFrom : Nat → List (Option Block) → List Nat
  | _, [] => []
  | i, some _ :: rest => erasedFrom (i + 1) rest
  | i, none :: rest => i :: erasedFrom (i + 1) rest

/-- P′ (R35). -/
def partialP (data : List (Option Block)) : Block := plainSum ((usableFrom 0 data).map (·.2))

/-- Q′ (R35). -/
def partialQ (data : List (Option Block)) : Block :=
  weightedSum ((usableFrom 0 data).map (fun x => (gfPow x.1, x.2)))

/-- The data blocks with the erased ones supplied by data index. -/
def fillData (supply : Nat → Block) : Nat → List (Option Block) → List Block
  | _, [] => []
  | i, some b :: rest => b :: fillData supply (i + 1) rest
  | i, none :: rest => supply i :: fillData supply (i + 1) rest

/-- The row's data blocks, with the erased ones reconstructed by the case of R37 to R42; none when three or more slots
are erased (R36). -/
def reconstructData (v : RowView) : Option (List Block) :=
  match erasedFrom 0 v.data, v.p, v.q with
  | [], _, _ => some (fillData (fun _ => zeroBlock) 0 v.data)
  | [_], some p, _ => some (fillData (fun _ => addBlocks p (partialP v.data)) 0 v.data)
  | [x], none, some q =>
    some (fillData (fun _ => scaleBlock (antilog ((255 - x) % 255)) (addBlocks q (partialQ v.data))) 0 v.data)
  | [x, y], some p, some q =>
    let a := addBlocks p (partialP v.data)
    let b := addBlocks q (partialQ v.data)
    let dx := scaleBlock (gfInv (gfPow x ^^^ gfPow y)) (addBlocks b (scaleBlock (gfPow y) a))
    some (fillData (fun i => if i = x then dx else addBlocks a dx) 0 v.data)
  | _, _, _ => none

/-- The whole row, erased parity recomputed from all data (R38, R39, R40, R42); none when it is UNRECOVERABLE (R36). -/
def reconstructRow (v : RowView) : Option RowBlocks :=
  match reconstructData v with
  | none => none
  | some data => some { data, p := v.p.getD (parityP data), q := v.q.getD (parityQ data) }

/-- The block of a role in a whole row. -/
def RowBlocks.ofRole (r : RowBlocks) : Role → Block
  | .p => r.p
  | .q => r.q
  | .data i => r.data.getD i zeroBlock

/-! ### Write computations -/

/-- One written block of a delta job: its data index, old value and new value (R43). -/
structure DeltaTerm where
  index : Nat
  old : Block
  new : Block
deriving DecidableEq, Repr

/-- P_new of a delta job (R43). -/
def deltaP (old : Block) (terms : List DeltaTerm) : Block :=
  addBlocks old (plainSum (terms.map (fun t => addBlocks t.old t.new)))

/-- Q_new of a delta job (R43). -/
def deltaQ (old : Block) (terms : List DeltaTerm) : Block :=
  addBlocks old (weightedSum (terms.map (fun t => (gfPow t.index, addBlocks t.old t.new))))

/-! ### Check codes and trailers -/

/-- One bit step of the check code register (R19). -/
def crcShift (r : BitVec 32) : BitVec 32 := if r.getLsbD 0 then (r >>> 1) ^^^ 0x82F63B78#32 else r >>> 1

/-- Eight bit steps (R19). -/
def crcByte (r : BitVec 32) (b : Byte) : BitVec 32 :=
  let x := r ^^^ b.setWidth 32
  crcShift (crcShift (crcShift (crcShift (crcShift (crcShift (crcShift (crcShift x)))))))

/-- The check code of bytes (R19). -/
def checkCode (bytes : List Byte) : BitVec 32 := (bytes.foldl crcByte 0xFFFFFFFF#32) ^^^ 0xFFFFFFFF#32

/-- The home stripe recorded for a stripe (R18, R20). -/
def homeStripe (stripe : Nat) : Nat := stripe % 16777216

/-- The trailer bytes with a home slot byte (R18). -/
def trailerBytes (stripe homeSlot : Nat) (block : Block) : List Byte :=
  leBytes 4 (checkCode block).toNat ++ leBytes 3 (homeStripe stripe) ++ [BitVec.ofNat 8 homeSlot]

/-- The fresh trailer of a block written to a slot (R22, R46). -/
def freshTrailer (stripe slot : Nat) (block : Block) : List Byte := trailerBytes stripe slot block

/-- The trailer of a poison block (R23). -/
def poisonTrailer (stripe : Nat) : List Byte := trailerBytes stripe 0xFF zeroBlock

/-- The check of a block and its trailer against the expected stripe and slot, in the order of R21. A sector that is
not 4,104 bytes fails the check (R18). -/
def checkTrailer (stripe slot : Nat) (block : Block) (trailer : List Byte) : BlockResult :=
  if block.length ≠ 4096 ∨ trailer.length ≠ 8 then .erased .trailer
  else if leField trailer 7 1 = 0xFF then .erased .poison
  else if leField trailer 7 1 ≠ slot ∨ leField trailer 4 3 ≠ homeStripe stripe then .erased .trailer
  else if leField trailer 0 4 ≠ (checkCode block).toNat then .erased .trailer
  else .good

/-! ### Row classification -/

/-- A transient erasure (R25). -/
def ErasureKind.transient : ErasureKind → Bool
  | .timeout => true
  | .notReady => true
  | _ => false

/-- The erasure kinds among results. -/
def erasureKinds (results : List BlockResult) : List ErasureKind :=
  results.filterMap fun r =>
    match r with
    | .good => none
    | .erased k => some k

/-- The class of a row from the results of its needed slots. On the last permitted attempt, and for host orders, a row
that meets the DEFERRABLE condition is LOST (R28, R29). -/
def classifyRow (last : Bool) (results : List BlockResult) : RowClass :=
  let kinds := erasureKinds results
  if kinds.length = 0 then .clean
  else if kinds.length ≤ 2 then .recoverable
  else if kinds.any ErasureKind.transient && !last then
    .deferrable (if kinds.contains .timeout then .timeout else .notReady)
  else .lost

/-- The kinds a mend can repair (R30). -/
def ErasureKind.mendable : ErasureKind → Bool
  | .medium => true
  | .trailer => true
  | .poison => true
  | _ => false

end Sys2Proof.Machine
end

