-- ==== Sys2Proof/Machine/Buffer.lean ====
section
/-! DEFINITION. The Stripe Buffer (chapter 4): partition, grants and releases, filling frames, and frame parity. -/

namespace Sys2Proof.Machine

/-- The partition made at installation: frames below the sweep pool's size form it, the others the order pool; all FREE
(R49). -/
def partitionFrom (pool : Nat) : Nat → List Frame → List Frame
  | _, [] => []
  | i, f :: fs =>
    { f with pool := some (if i < pool then .sweep else .order), owner := none, state := .free } ::
      partitionFrom pool (i + 1) fs

/-- The frames are partitioned with a sweep pool of the given size (R49). -/
def partitionFrames (pool : Nat) (p : Part) : Part :=
  p.onBuffer fun b => { b with frames := partitionFrom pool 0 b.frames }

/-- A frame is FREE in a pool. -/
def Frame.freeIn (f : Frame) (pool : Pool) : Bool := f.pool = some pool && f.state = .free

/-- The FREE frames of a pool (R51, R54). -/
def Part.freeFrames (p : Part) (pool : Pool) : Nat := (p.buffer.frames.filter (·.freeIn pool)).length

/-- The frames of a pool (R49, R53). -/
def Part.poolSize (p : Part) (pool : Pool) : Nat := (p.buffer.frames.filter (fun f => f.pool = some pool)).length

/-- The numbers of the first `n` FREE frames of a pool, from number `i` on: the model grants the lowest (log 16). -/
def firstFree (pool : Pool) : Nat → Nat → List Frame → List Nat
  | _, _, [] => []
  | 0, _, _ => []
  | n + 1, i, f :: fs => if f.freeIn pool then i :: firstFree pool n (i + 1) fs else firstFree pool (n + 1) (i + 1) fs

/-- The frames a grant of `n` takes. -/
def Part.grantable (p : Part) (pool : Pool) (n : Nat) : List Nat := firstFree pool n 0 p.buffer.frames

/-- A grant: the frames become RESERVED and owned by the band (R50, R51, R54). -/
def grantFrames (o : Owner) (frames : List Nat) (p : Part) : Part :=
  frames.foldl (fun q i => q.modFrame i fun f => { f with owner := some o, state := .reserved }) p

/-- A band releases all its frames at once (R50, R52, R55); their bytes stay. -/
def releaseFrames (o : Owner) (p : Part) : Part :=
  p.onBuffer fun b =>
    { b with frames := b.frames.map fun f => if f.owner = some o then { f with owner := none, state := .free } else f }

/-- The frame that serves a row, slot and part in a layout (R51, R53). -/
def frameAt (places : List FramePlace) (row slot : Nat) (part : FramePart) : Option Nat :=
  (places.find? (fun x => x.row = row && x.slot = slot && x.part = part)).map (·.frame)

/-- A frame takes new contents, its parity computed afresh; an UNFIT frame stays UNFIT until its release (R50, R56). -/
def Frame.fill (f : Frame) (state : FrameState) (block : Block) (trailer : List Byte) : Frame :=
  if f.state = .unfit then f else { f with state, block, trailer, upset := false }

/-- A sector or a gathered block is put in a frame (R50). -/
def loadFrame (i : Nat) (block : Block) (trailer : List Byte) (p : Part) : Part :=
  p.modFrame i fun f => f.fill .loaded block trailer

/-- The Parity Unit places an output block with its trailer (R50). -/
def placeFrame (i : Nat) (block : Block) (trailer : List Byte) (p : Part) : Part :=
  p.modFrame i fun f => f.fill .placed block trailer

/-- Upsets strike frames (R56, log 12). -/
def strikeFrames (frames : List Nat) (p : Part) : Part :=
  frames.foldl (fun q i => q.modFrame i fun f => { f with upset := true }) p

/-- A read of the frame finds a parity error (R56): its bytes have changed since it was filled, or an error was found
before. -/
def Part.parityError (p : Part) (i : Nat) : Bool := (p.frame i).upset || (p.frame i).state = .unfit

/-- Frame parity errors are found: the frames become UNFIT and the Alert Unit is given BUFFER_PARITY (R56). -/
def markUnfit (frames : List Nat) (p : Part) : Part :=
  raiseCause .bufferParity (frames.foldl (fun q i => q.modFrame i fun f => { f with state := .unfit }) p)

/-- An output frame that a job ending with BUFFER_PARITY had written: it is left with no trailer and marked unfit (R47);
which bytes of its block the job had come to is open (log 59). -/
def Frame.spoil (freeCount i : Nat) (f : Frame) : Frame :=
  { f with state := .unfit, trailer := [], block := (List.range 4096).map (Config.unfinishedByte freeCount i) }

/-- The output frames of a job that ends with BUFFER_PARITY (R47): those the job had written are spoiled. The ones found
with an error were written, since the error was met in them; of the others it is open (log 59). -/
def spoilOutputs (bad outputs : List Nat) (p : Part) : Part :=
  ((outputs.filter fun f => bad.contains f || Config.jobWrote p.freeCount f).foldl
    (fun q f => q.modFrame f (Frame.spoil p.freeCount f)) p).spend

/-- The block held by the frame of a row, slot and part. -/
def Part.blockAt (p : Part) (places : List FramePlace) (row slot : Nat) (part : FramePart) : Block :=
  match frameAt places row slot part with
  | some i => (p.frame i).block
  | none => []

/-- The sector a frame sends: its block and trailer (R18). -/
def Part.sectorOf (p : Part) (i : Nat) : Sector := (p.frame i).block ++ (p.frame i).trailer

end Sys2Proof.Machine
end

