-- ==== Sys2Proof/Machine/Locks.lean ====
section
/-! DEFINITION. The Lock Table (chapter 6): request, release and withdrawal, each giving the table after it and the
requesters granted, in order. -/

namespace Sys2Proof.Machine

/-- The entry in use for a stripe (R84). -/
def LockTable.indexOf (t : LockTable) (stripe : Nat) : Option Nat :=
  lowestIndex (fun x => match x with
    | some e => e.stripe = stripe
    | none => false) t.entries

/-- A new holding of an entry. -/
def LockEntry.fresh (stripe : Nat) (mode : LockMode) (holders : List Requester)
    (waiters : List (Requester × LockMode)) : LockEntry := { stripe, mode, holders, waiters }

/-- A request taken against the entry that holds its stripe: a SHARED request joins SHARED holders when no one waits,
any other waits at the tail (R84). True when it was granted. -/
def LockEntry.join (e : LockEntry) (q : Requester) (m : LockMode) : LockEntry × Bool :=
  if e.mode = .shared ∧ m = .shared ∧ e.waiters = [] then ({ e with holders := e.holders ++ [q] }, true)
  else ({ e with waiters := e.waiters ++ [(q, m)] }, false)

/-- A request for the lock of a stripe (R84, R85). -/
def LockTable.request (t : LockTable) (q : Requester) (stripe : Nat) (m : LockMode) : LockTable × List Requester :=
  match t.indexOf stripe with
  | some i =>
    match t.entries.getD i none with
    | some e =>
      let (e', granted) := e.join q m
      ({ t with entries := t.entries.set i (some e') }, if granted then [q] else [])
    | none => (t, [])
  | none =>
    match lowestIndex Option.isNone t.entries with
    | some i => ({ t with entries := t.entries.set i (some (.fresh stripe m [q] [])) }, [q])
    | none => ({ t with waiting := t.waiting ++ [{ requester := q, stripe, mode := m }] }, [])

/-- The SHARED pairs at the front of a waiter queue (R86). -/
def sharedRun (ws : List (Requester × LockMode)) : List Requester :=
  (ws.takeWhile (fun w => w.2 = .shared)).map (·.1)

/-- The waiter queue behind its front run of SHARED pairs. -/
def afterSharedRun (ws : List (Requester × LockMode)) : List (Requester × LockMode) :=
  ws.dropWhile (fun w => w.2 = .shared)

/-- The last holder has left an entry with waiters: the head is granted, and behind a SHARED head the run of SHARED
pairs (R86). -/
def LockEntry.passOn (e : LockEntry) : LockEntry × List Requester :=
  match e.waiters with
  | [] => (e, [])
  | (q, .exclusive) :: rest => ({ e with mode := .exclusive, holders := [q], waiters := rest }, [q])
  | (q, .shared) :: rest =>
    let granted := q :: sharedRun rest
    ({ e with mode := .shared, holders := granted, waiters := afterSharedRun rest }, granted)

/-- The further requests of the global wait list for the head's stripe, taken against its entry in list order (R87). -/
def gatherWaiting : LockEntry → List LockWait → LockEntry × List Requester
  | e, [] => (e, [])
  | e, w :: ws =>
    if w.stripe = e.stripe then
      let (e', granted) := e.join w.requester w.mode
      let (e'', more) := gatherWaiting e' ws
      (e'', if granted then w.requester :: more else more)
    else gatherWaiting e ws

/-- An entry left empty is freed, and the global wait list's head takes it at once (R87). -/
def LockTable.freed (t : LockTable) (i : Nat) : LockTable × List Requester :=
  match t.waiting with
  | [] => ({ t with entries := t.entries.set i none }, [])
  | h :: rest =>
    let (e, granted) := gatherWaiting (.fresh h.stripe h.mode [h.requester] []) rest
    ({ entries := t.entries.set i (some e), waiting := rest.filter (fun w => w.stripe ≠ h.stripe) },
     h.requester :: granted)

/-- The entry a requester holds. -/
def LockTable.heldBy (t : LockTable) (q : Requester) : Option Nat :=
  lowestIndex (fun x => match x with
    | some e => e.holders.contains q
    | none => false) t.entries

/-- A holder releases its lock (R86, R87). A requester that holds none changes nothing. -/
def LockTable.release (t : LockTable) (q : Requester) : LockTable × List Requester :=
  match t.heldBy q with
  | none => (t, [])
  | some i =>
    match t.entries.getD i none with
    | none => (t, [])
    | some e =>
      let left := e.holders.filter (· ≠ q)
      if left ≠ [] then ({ t with entries := t.entries.set i (some { e with holders := left }) }, [])
      else if e.waiters ≠ [] then
        let (e', granted) := e.passOn
        ({ t with entries := t.entries.set i (some e') }, granted)
      else t.freed i

/-- The entry in whose waiter queue a requester stands. -/
def LockTable.awaitedBy (t : LockTable) (q : Requester) : Option Nat :=
  lowestIndex (fun x => match x with
    | some e => e.waiters.any (fun w => w.1 = q)
    | none => false) t.entries

/-- A waiting requester withdraws: from the global wait list, or from a waiter queue, which may let a SHARED run join a
SHARED holding (R88). -/
def LockTable.withdraw (t : LockTable) (q : Requester) : LockTable × List Requester :=
  match t.awaitedBy q with
  | none => ({ t with waiting := t.waiting.filter (fun w => w.requester ≠ q) }, [])
  | some i =>
    match t.entries.getD i none with
    | none => (t, [])
    | some e =>
      let rest := e.waiters.filter (fun w => w.1 ≠ q)
      if e.mode = .shared then
        let granted := sharedRun rest
        ({ t with entries := t.entries.set i (some { e with holders := e.holders ++ granted, waiters := afterSharedRun rest }) },
         granted)
      else ({ t with entries := t.entries.set i (some { e with waiters := rest }) }, [])

/-- The requester holds a lock. -/
def LockTable.holds (t : LockTable) (q : Requester) : Bool := (t.heldBy q).isSome

/-- The requester waits for a lock. -/
def LockTable.waits (t : LockTable) (q : Requester) : Bool :=
  (t.awaitedBy q).isSome || t.waiting.any (fun w => w.requester = q)

end Sys2Proof.Machine
end

