-- ==== Sys2Proof/Machine/Grants.lean ====
section
/-! DEFINITION. What a lock grant starts (R89, R102, R166): the rebuilt query (R122), the geometry of an extent (R163,
R165), an order band's request for frames (R167), and an extent order's completion (R180). -/

namespace Sys2Proof.Machine

/-! ### The rebuilt query -/

/-- "Is stripe s rebuilt?" (R122). -/
def Part.rebuilt (p : Part) (s : Nat) : Bool :=
  match p.sweep.state with
  | .idle => false
  | .starting => false
  | .done => true
  | _ => s < p.sweep.watermark && !p.retry.holdsStripe s

/-! ### The geometry of an extent -/

/-- The data indices of a row's requested blocks, in increasing order (R165). -/
def requestedIndices (g : Profile) (b0 c s r : Nat) : List Nat :=
  (List.range g.n).filter (fun d => b0 ≤ g.blockAt s d r && g.blockAt s d r < b0 + c)

/-- The slots of a row's requested blocks, in increasing data index (R7, R165). -/
def requestedSlots (g : Profile) (b0 c s r : Nat) : List Nat := (requestedIndices g b0 c s r).map (g.dataSlot s)

/-- The rows of a stripe that an extent touches, in increasing order (R165). -/
def touchedRows (g : Profile) (b0 c s : Nat) : List Nat :=
  (List.range g.k).filter (fun r => requestedIndices g b0 c s r ≠ [])

/-- The array block address of a row's first requested block (R165). -/
def firstRequested (g : Profile) (b0 c s r : Nat) : Nat :=
  match requestedIndices g b0 c s r with
  | d :: _ => g.blockAt s d r
  | [] => g.blockAt s 0 r

/-- The last stripe of an extent. -/
def lastStripe (g : Profile) (b0 c : Nat) : Nat := g.stripeOf (b0 + c - 1)

/-- The first requested block of each order row, in processing order (R165). -/
def orderRowBlocks (g : Profile) (b0 c : Nat) : List Nat :=
  (List.range (lastStripe g b0 c + 1 - g.stripeOf b0)).flatMap fun i =>
    (touchedRows g b0 c (g.stripeOf b0 + i)).map (firstRequested g b0 c (g.stripeOf b0 + i))

/-- b0 of an extent order (R163). -/
def OrderRecord.firstBlock (r : OrderRecord) : Nat := r.p0.toNat

/-- The block count of an extent order (R163). -/
def OrderRecord.blockCount (r : OrderRecord) : Nat := r.p1.toNat

/-- The order is a WRITE EXTENT. -/
def OrderRecord.isWrite (r : OrderRecord) : Bool := r.kind = 0x02

/-- Where an order's lock mode comes from (R82). -/
def OrderRecord.lockMode (r : OrderRecord) : LockMode := if r.isWrite then .exclusive else .shared

/-- Frames per row of an order band (R53). -/
def framesPerRow (g : Profile) (write : Bool) : Nat := if write then 2 * g.m else g.m

/-! ### Order bands ask for frames -/

/-- A row at its band's start. -/
def RowWork.start (write : Bool) (row : Nat) (want : List Nat) : RowWork :=
  { row, want, phase := if write then .gathering else .direct, method := .full, asked := [], results := [], job := none,
    ready := [] }

/-- The order's next band takes its touched rows and joins the order-pool queue (R53, R54, R167). -/
def askBand (e : Nat) (p : Part) : Part :=
  match p.geometry.profile, p.entry? e, p.extent? e with
  | some g, some x, some ext =>
    match ext.stripe with
    | some s =>
      let per := framesPerRow g x.record.isWrite
      let n := min 8 (min ext.rowsLeft.length (p.poolSize .order / per))
      let rows := (ext.rowsLeft.take n).map fun r =>
        RowWork.start x.record.isWrite r (requestedSlots g x.record.firstBlock x.record.blockCount s r)
      (p.modExtent e fun y =>
        { y with band := some { granted := false, rows, places := [], dma := .idle }, rowsLeft := y.rowsLeft.drop n }).onBuffer
        fun b => { b with queue := b.queue ++ [(e, per * n)] }
    | none => p
  | _, _, _ => p

/-! ### Grants -/

/-- An order is granted its lock: it takes the rebuilt answer and its unbuilt slot, and starts the stripe's bands
(R89, R166). -/
def orderGranted (e : Nat) (p : Part) : Part :=
  match p.geometry.profile, p.entry? e, p.extent? e with
  | some g, some x, some ext =>
    match ext.stripe with
    | some s =>
      let answer := p.rebuilt s
      askBand e (p.modExtent e fun y =>
        { y with lock := .held, rebuilt := some answer, unbuilt := if answer then none else p.targetSlot,
                 rowsLeft := touchedRows g x.record.firstBlock x.record.blockCount s })
    | none => p
  | _, _, _ => p

/-- A stripe context is granted its lock and enters BANDING (R102). -/
def contextGranted (place : Nat) (p : Part) : Part := p.modContext place fun c => { c with phase := .banding }

/-- A grant is handed to its requester (R84, R89). -/
def grantTo (q : Requester) (p : Part) : Part :=
  match q with
  | .order e => orderGranted e p
  | .context place => contextGranted place p

/-- Grants handed out in order. -/
def handGrants (qs : List Requester) (p : Part) : Part := qs.foldl (fun x q => grantTo q x) p

/-- A requester asks for a lock (R84). -/
def requestLock (q : Requester) (stripe : Nat) (m : LockMode) (p : Part) : Part :=
  handGrants (p.locks.request q stripe m).2 (p.onLocks fun t => (t.request q stripe m).1)

/-- A holder releases its lock (R86). -/
def releaseLock (q : Requester) (p : Part) : Part :=
  handGrants (p.locks.release q).2 (p.onLocks fun t => (t.release q).1)

/-- A waiting requester withdraws (R88). -/
def withdrawLock (q : Requester) (p : Part) : Part :=
  handGrants (p.locks.withdraw q).2 (p.onLocks fun t => (t.withdraw q).1)

/-- A requester gives up its lock or its request (R91, R92). -/
def giveUpLock (q : Requester) (p : Part) : Part :=
  if p.locks.holds q then releaseLock q p
  else if p.locks.waits q then withdrawLock q p
  else p

/-! ### An extent order works through its stripes -/

/-- The order takes a stripe as its stripe in hand and asks for its lock (R166). -/
def askStripe (e stripe : Nat) (p : Part) : Part :=
  match p.entry? e with
  | some x =>
    requestLock (.order e) stripe x.record.lockMode
      (p.modExtent e fun y =>
        { y with stripe := some stripe, lock := .waiting, rebuilt := none, unbuilt := none, rowsLeft := [] })
  | none => p

/-- The status of a stop cause (R180). -/
def StopCause.status : StopCause → Status
  | .arrayFailed => .arrayFailed
  | .bufferFault => .bufferFault
  | .hostMemoryFault => .hostMemoryFault

/-- Detail B of a stopped order: the first row not completed, also where R59 names another row (DESIGN CHOICE, log 66); open
when every row has completed (R180, log 8). -/
def stopDetail (g : Profile) (x : OrderEntry) (done freeCount : Nat) : Word :=
  match (orderRowBlocks g x.record.firstBlock x.record.blockCount)[done]? with
  | some b => BitVec.ofNat 64 b
  | none => Config.noRowLeft freeCount

/-- The order has released its frames; it gives up its lock and completes (R92, R180). -/
def completeExtent (e : Nat) (p : Part) : Part :=
  match p.geometry.profile, p.entry? e, p.extent? e with
  | some g, some x, some ext =>
    let q := giveUpLock (.order e) p
    let c := x.record.blockCount
    match ext.stop with
    | some cause => finishOrder e cause.status (detail ext.rowsDone) (some (stopDetail g x ext.rowsDone p.freeCount)) q
    | none =>
      if 0 < ext.lost then finishOrder e .dataLost (detail ext.lost) (detail (ext.firstLost.getD 0)) q
      else if !x.record.isWrite && 0 < ext.reconstructed then
        finishOrder e .recovered (detail c) (detail ext.reconstructed) q
      else finishOrder e .ok (detail c) (detail 0) q
  | _, _, _ => p

/-- The order has finished its stripe in hand: it releases the lock and takes the next stripe, or completes (R92,
R166). -/
def nextStripe (e : Nat) (p : Part) : Part :=
  match p.geometry.profile, p.entry? e, p.extent? e with
  | some g, some x, some ext =>
    match ext.stripe with
    | some s =>
      if s < lastStripe g x.record.firstBlock x.record.blockCount then
        askStripe e (s + 1) (releaseLock (.order e) (p.modExtent e fun y =>
          { y with stripe := none, lock := .none, rebuilt := none, unbuilt := none }))
      else completeExtent e p
    | none => p
  | _, _, _ => p

end Sys2Proof.Machine
end

