-- ==== Sys2Proof/Machine/Pace.lean ====
section
/-! DEFINITION. The Pace Controller (chapter 10): installation of a parameter set, the window's start, stop and end, and
the update of B. -/

namespace Sys2Proof.Machine

/-- The mode and the counts as an installation or a START SWEEP leaves them: ACQUIRE, 0, 0, ABOVE (R150, R158, R160). -/
def Pace.acquire (c : Pace) : Pace := { c with track := false, inBand := 0, drift := 0, below := false }

/-- A profile's parameters are installed: B becomes the clamped B0 (R150). -/
def Pace.installProfile (c : Pace) (set : PaceSet) : Pace :=
  { c.acquire with installed := some set.clamped, next := none, budget := set.clamped.initial, remaining := 0, timer := none,
                   lastBacklog := 0 }

/-- A SET PACE parameter set is installed: B and the set's B0 are clamped into its [F, C] (R160). -/
def Pace.install (c : Pace) (set : PaceSet) : Pace :=
  { c.acquire with installed := some set.clamped, next := none, budget := clampInto set.floor set.ceiling c.budget }

/-- A set waiting as the next set is installed (R151, R157). -/
def Pace.installNext (c : Pace) : Pace :=
  match c.next with
  | some set => c.install set
  | none => c

/-- A fresh pacing window starts: the timer is loaded and the remaining budget becomes B (R151). Without an installed
set the timer does not run (R149). -/
def Pace.startWindow (c : Pace) : Pace :=
  match c.installed with
  | some set => { c with timer := some set.window, remaining := c.budget }
  | none => c

/-- The sweep has left SWEEPING and RETRYING: the timer stops, the window ends without an update, and a waiting next set
is installed (R151). -/
def Pace.stopWindow (c : Pace) : Pace :=
  match c.timer with
  | some _ => ({ c with timer := none, remaining := 0 } : Pace).installNext
  | none => { c with remaining := 0 }

/-- START SWEEP: B becomes B0, the mode ACQUIRE, the counts 0 (R158); the timer does not run yet, so nothing remains
(R151). -/
def Pace.startSweep (c : Pace) : Pace :=
  { c.acquire with budget := (c.installed.map (·.initial)).getD c.budget, remaining := 0 }

/-- Ceiling of an eighth (R155). -/
def ceilEighth (b : Nat) : Nat := (b + 7) / 8

/-- The window-end update in ACQUIRE (R154). -/
def Pace.updateAcquire (c : Pace) (set : PaceSet) (backlog : Nat) : Pace :=
  if set.high < backlog then { c with budget := max set.floor (c.budget / 2), inBand := 0 }
  else if backlog < set.low then { c with budget := min set.ceiling (2 * c.budget), inBand := 0 }
  else if c.inBand + 1 = 4 then { c with track := true, inBand := 0, drift := 0, below := false }
  else { c with inBand := c.inBand + 1 }

/-- The drift count reaching 3 returns the controller to ACQUIRE (R155). -/
def Pace.driftCheck (c : Pace) : Pace :=
  if c.drift = 3 then { c with track := false, drift := 0, inBand := 0 } else c

/-- The window-end update in TRACK (R155). -/
def Pace.updateTrack (c : Pace) (set : PaceSet) (backlog : Nat) : Pace :=
  if set.high < backlog then
    ({ c with budget := max set.floor (c.budget - ceilEighth c.budget),
              drift := if c.below then 1 else c.drift + 1, below := false } : Pace).driftCheck
  else if backlog < set.low then
    ({ c with budget := min set.ceiling (c.budget + max 1 (c.budget / 8)),
              drift := if c.below then c.drift + 1 else 1, below := true } : Pace).driftCheck
  else { c with drift := 0 }

/-- The window-end update by pacing mode and mode (R154, R155, R156). -/
def Pace.update (c : Pace) (set : PaceSet) (backlog : Nat) : Pace :=
  if !set.adaptive then { c with budget := set.ceiling }
  else if c.track then c.updateTrack set backlog
  else c.updateAcquire set backlog

/-- A window end (R157). It comes only while the timer runs. -/
def Pace.windowEnd (c : Pace) (backlog : Nat) : Pace :=
  match c.timer, c.installed with
  | some _, some set => (({ c with lastBacklog := backlog } : Pace).update set backlog).installNext.startWindow
  | _, _ => c

/-- SET PACE without RESTART (R160). -/
def Pace.offer (c : Pace) (set : PaceSet) : Pace :=
  match c.timer with
  | some _ => { c with next := some set }
  | none => { c.install set with remaining := 0 }

/-- SET PACE with RESTART (R161). -/
def Pace.restart (c : Pace) (set : PaceSet) : Pace :=
  match c.timer with
  | some _ => (c.install set).startWindow
  | none => { c.install set with remaining := 0 }

end Sys2Proof.Machine
end

