-- ==== Sys2Proof/Machine/Sweep.lean ====
section
/-! DEFINITION. The Sweep Controller (chapter 7): its states, settling and the watermark, pausing, halting, abandoning
and finishing. -/

namespace Sys2Proof.Machine

/-! ### Codes (R206) -/

def SweepState.code : SweepState → Nat
  | .idle => 0
  | .starting => 1
  | .sweeping => 2
  | .retrying => 3
  | .pausing => 4
  | .paused => 5
  | .halting => 6
  | .halted => 7
  | .abandoning => 8
  | .finishing => 9
  | .done => 10

def Phase.code : Phase → Nat
  | .lockWait => 0
  | .banding => 1
  | .settling => 2

/-! ### Sweep state -/

/-- The sweep takes a state. -/
def setSweepState (st : SweepState) (p : Part) : Part := p.onSweep fun s => { s with state := st }

/-- SWEEPING or RETRYING: contexts and bands launch (R96). -/
def Sweep.inPass (s : Sweep) : Bool := s.state = .sweeping || s.state = .retrying

/-- IDLE, PAUSED, HALTED or DONE (R96). -/
def Sweep.atRest (s : Sweep) : Bool := s.state = .idle || s.state = .paused || s.state = .halted || s.state = .done

/-- The window holds no context. -/
def Part.windowEmpty (p : Part) : Bool := p.places = []

/-- A band is in flight (R108, R114). -/
def Part.bandInFlight (p : Part) : Bool :=
  p.sweep.window.any fun c =>
    match c with
    | some x => x.band.isSome
    | none => false

/-- A context's settle steps are under way: between steps only while it waits for the Retry List (R109). -/
def Part.settleUnderWay (p : Part) : Bool :=
  p.sweep.window.any fun c =>
    match c with
    | some x => x.joining
    | none => false

/-- Nothing holds PAUSING or HALTING back from rest (R114, R117). -/
def Part.sweepSettled (p : Part) : Bool := !p.bandInFlight && !p.settleUnderWay

/-- S of the installed profile. -/
def Part.stripeCount (p : Part) : Nat :=
  match p.geometry.profile with
  | some g => g.stripes
  | none => 0

/-! ### Waiting PAUSE orders -/

/-- Each waiting PAUSE completes with OK, with W and the resting state reached (R114). -/
def completePauses (p : Part) : Part :=
  (p.sweep.pauseWait.foldl
      (fun q e => finishOrder e .ok (detail q.sweep.watermark) (detail q.sweep.state.code) q) p).onSweep
    fun s => { s with pauseWait := [] }

/-! ### IDLE, DONE, FINISHING -/

/-- The sweep enters IDLE (R123). -/
def enterIdle (p : Part) : Part :=
  completePauses
    ((((p.onSweep fun s =>
          { s with state := .idle, pass := .main, watermark := 0, next := 0, window := List.replicate 4 none,
                   haltSet := 0, settleCount := 0 }).onRetry RetryList.emptied).onPace Pace.stopWindow).onFindings
      fun f => { f with waiting := [] })

/-- The TARGET is made ONLINE; with none, the request is refused and changes nothing (R11, R13). -/
def targetOnline (p : Part) : Part :=
  match p.targetSlot with
  | some t => deriveFailed (p.modMember t fun x => { x with state := .online })
  | none => p

/-- The sweep enters DONE (R121). -/
def enterDone (p : Part) : Part :=
  raiseCause .sweepDone
    (targetOnline ((setSweepState .done p).onStore fun c => { c with sweepWait := none }))

/-- The sweep enters FINISHING and waits for its DONE record, unless no write can start (R121). -/
def enterFinishing (p : Part) : Part :=
  let q := requestSweepCheckpoint ((setSweepState .finishing p).onPace Pace.stopWindow)
  if q.storeStuck then enterDone q else q

/-! ### Entering a pass, and its end -/

/-- The sweep enters PAUSING (R114, R116). -/
def enterPausing (p : Part) : Part := (setSweepState .pausing p).onPace Pace.stopWindow

/-- The sweep enters the state of its pass with a fresh pacing window; while the engine is UNBINDING it enters PAUSING at
once (R99, R115, R116, R119, R151). -/
def enterPass (p : Part) : Part :=
  let q := (setSweepState (if p.sweep.pass = .main then .sweeping else .retrying) p).onPace Pace.startWindow
  if q.engine.state = .unbinding then enterPausing q else q

/-- The end of the main pass when W has reached S, and of the retry pass when the list and the window are empty (R113).
It is taken in SWEEPING and RETRYING alone (log 17). Between the passes the window timer stops and starts again: a next set
that waits is installed at that stop, B clamped by it, and the fresh window starts with the B it leaves (DEDUCED, log
61). -/
def passEnd (p : Part) : Part :=
  match p.sweep.state with
  | .sweeping =>
    if p.stripeCount ≤ p.sweep.watermark then
      if p.retry.isEmpty then enterFinishing p
      else (p.onSweep fun s => { s with state := .retrying, pass := .retry }).onPace fun c => c.stopWindow.startWindow
    else p
  | .retrying => if p.retry.isEmpty && p.windowEmpty then enterFinishing p else p
  | _ => p

/-- A context that returns to the pass asks for its lock when it holds a reservation, and for a reservation otherwise
(R91, R102). One that is granted its reservation while the sweep has left its pass again (PAUSING, PAUSED or HALTING)
keeps it and asks for its lock on the next return to the pass (DEDUCED, log 54). -/
def contextReturns (p : Part) (place : Nat) : Part :=
  match p.context? place with
  | some c =>
    if c.settled then p
    else if c.reserved then
      if p.sweep.inPass then
        requestLock (.context place) c.stripe .exclusive (p.modContext place fun x => { x with phase := .lockWait })
      else p
    else if p.findings.waiting.contains place then p
    else p.onFindings fun f => { f with waiting := f.waiting ++ [place] }
  | none => p

/-- The contexts return to the pass in increasing order of place. R102 says so of those that leave HALTED together; of those
that ask for their locks again on RESUME from PAUSED neither R91 nor R115 gives an order, and the same is taken (DESIGN
CHOICE, log 60). -/
def contextsReturn (p : Part) : Part := p.places.foldl contextReturns p

/-! ### Halting -/

/-- A context as HALTED leaves it: its stripe and attempt, the source that follows from the attempt, and its settled mark
(R118). The phase of a settled context stays SETTLING as R100 has it until W passes, although R118 gives every context
LOCK_WAIT (DEDUCED, log 70). -/
def Context.haltReset (c : Context) : Context :=
  { c with source := if c.attempt = 1 then .main else .retry, phase := if c.settled then c.phase else .lockWait,
           nextRow := 0, lostRows := 0, mendedRows := 0, mendFailed := false, involved := 0, deferral := none,
           reserved := false, band := none, joining := false, entryReason := none }

/-- Every context gives up its lock or withdraws its request (R91), in increasing order of window place, which orders the
grants to those that wait (DESIGN CHOICE, log 53). -/
def contextsGiveUp (p : Part) : Part := p.places.foldl (fun q place => giveUpLock (.context place) q) p

/-- The sweep leaves HALTED once the halt set is empty: to its pass with a target in an array that is not FAILED,
otherwise to IDLE (R119). While a LOAD PROFILE is in progress it does not go back to its pass but stays HALTED until the
load ends, since m, k and the partition cannot change under a running sweep (R3, R93, R150; DEDUCED, log 52). -/
def leaveHalted (p : Part) : Part :=
  if p.targetSlot.isSome && p.condition ≠ .failed then
    if p.loading then p else passEnd (contextsReturn (enterPass p))
  else enterIdle p

/-- The sweep's contexts and the Sweep Controller as HALTED is entered (R118). -/
def restHalted (p : Part) : Part :=
  raiseCause .sweepHalted
    (requestCheckpoint
      (((contextsGiveUp (setSweepState .halted p)).onSweep fun s =>
          { s with window := s.window.map (Option.map Context.haltReset) }).onFindings
        fun f => { f with waiting := [] }))

/-- HALTING becomes HALTED: a waiting PAUSE completes (R114, R118), and the sweep leaves HALTED at once when CLEAR has
emptied the halt set meanwhile (R119). -/
def enterHaltedState (p : Part) : Part :=
  let q := completePauses (restHalted p)
  if q.sweep.haltSet = 0 then leaveHalted q else q

/-- A cause joins the halt set; SPARE_FAULT is latched then (R117). -/
def joinHaltSet (c : HaltCause) (p : Part) : Part :=
  let q := p.onSweep fun s => { s with haltSet := setBit s.haltSet c.bit }
  if c = .spareFault then latch .spareFault q else q

/-- A halt cause is taken (R117). In PAUSED it leads to HALTED at once, and no PAUSE waits there to be completed (R114). -/
def haltCause (c : HaltCause) (p : Part) : Part :=
  match p.sweep.state with
  | .sweeping => (setSweepState .halting (joinHaltSet c p)).onPace Pace.stopWindow
  | .retrying => (setSweepState .halting (joinHaltSet c p)).onPace Pace.stopWindow
  | .pausing => setSweepState .halting (joinHaltSet c p)
  | .paused => restHalted (joinHaltSet c p)
  | .halting => joinHaltSet c p
  | .halted => joinHaltSet c p
  | _ => p

/-! ### Abandoning -/

/-- A context is discarded: it gives up its lock, its reservation and its place (R120). -/
def discardContext (place : Nat) (p : Part) : Part :=
  ((giveUpLock (.context place) p).dropContext place).onFindings fun f =>
    { f with waiting := f.waiting.filter (· ≠ place) }

/-- The ABANDON completes and the sweep enters IDLE (R120). -/
def abandonEnds (wrote : Bool) (p : Part) : Part :=
  let q := (enterIdle p).onStore fun c => { c with sweepWait := none }
  match p.sweep.abandonWait with
  | some a =>
    finishOrder a.entry (if wrote then .ok else .checkpointFailed) (detail a.watermark) none
      (q.onSweep fun s => { s with abandonWait := none })
  | none => q

/-- In ABANDONING with an empty window the Retry List is emptied, and the sweep enters IDLE once its ABANDONED write has
ended or cannot start (R120). -/
def abandonCheck (p : Part) : Part :=
  if p.sweep.state = .abandoning && p.windowEmpty then
    let q := p.onRetry RetryList.emptied
    match (p.sweep.abandonWait.bind (·.wrote)) with
    | some wrote => abandonEnds wrote q
    | none => if q.storeStuck then abandonEnds false q else q
  else p

/-- In ABANDONING, a context with no band and no settle under way is discarded (R120). -/
def abandonDiscards (p : Part) (place : Nat) : Part :=
  match p.context? place with
  | some c => if c.band.isNone && !c.joining then discardContext place p else p
  | none => p

/-! ### Settling and the watermark -/

/-- The place of a settled main-pass context whose stripe is W (R110). -/
def Part.settledAtW (p : Part) : Option Nat :=
  lowestIndex (fun c => match c with
    | some x => x.settled && x.source = .main && x.stripe = p.sweep.watermark
    | none => false) p.sweep.window

/-- W advances past settled contexts, as often as the window can hold one (R110). -/
def advanceWatermark : Nat → Part → Part
  | 0, p => p
  | n + 1, p =>
    match p.settledAtW with
    | some place =>
      advanceWatermark n ((p.dropContext place).onSweep fun s => { s with watermark := s.watermark + 1 })
    | none => p

/-- Step 2 of a settle: the finding is staged in the reserved entry, or the reservation returned (R109, R133). -/
def stageFinding (place : Nat) (p : Part) : Part :=
  match p.context? place with
  | some c =>
    let q := p.modContext place fun x => { x with reserved := false }
    if c.hasFinding && c.reserved then q.onFindings fun f => { f with staged := f.staged ++ [c.finding] } else q
  | none => p

/-- Step 5 of a settle: the settlement is counted (R109, R112). -/
def countSettlement (p : Part) : Part :=
  match p.geometry.profile with
  | some g =>
    if g.interval = 0 then p.onSweep fun s => { s with settleCount := min 65535 (s.settleCount + 1) }
    else if g.interval ≤ p.sweep.settleCount + 1 then requestCheckpoint (p.onSweep fun s => { s with settleCount := 0 })
    else p.onSweep fun s => { s with settleCount := s.settleCount + 1 }
  | none => p

/-- The settle steps after the Retry List's: finding, watermark, lock and count; a retry-pass context then gives up its
place (R109 steps 2 to 5, R110, R113). In ABANDONING the context is then discarded (R120). -/
def settleRest (place : Nat) (p : Part) : Part :=
  match p.context? place with
  | some c =>
    let staged := (stageFinding place p).modContext place fun x => { x with settled := true, joining := false }
    let moved := if c.source = .main then passEnd (advanceWatermark 4 staged) else staged
    let counted := countSettlement (releaseLock (.context place) moved)
    let ended := if c.source = .retry then passEnd (counted.dropContext place) else counted
    if ended.sweep.state = .abandoning then abandonCheck (discardContext place ended) else ended
  | none => p

/-- A settle begins with the Retry List's step (R109 step 1, R126, R128). -/
def settle (place : Nat) (p : Part) : Part :=
  match p.context? place with
  | some c =>
    match c.deferral with
    | some reason =>
      let j : Join := { place, stripe := c.stripe, attempt := c.attempt + 1, reason, move := c.source = .retry }
      match p.retry.placeOnChip j with
      | some r => settleRest place (p.onRetry fun _ => r)
      | none =>
        (p.modContext place fun x => { x with joining := true }).onRetry fun r => { r with joins := r.joins ++ [j] }
    | none =>
      if c.source = .retry then settleRest place (p.onRetry fun r => { r with onChip := r.withoutTaken place })
      else settleRest place p
  | none => p

/-! ### Joins refused and begun (R127, R111) -/

/-- The Alert Unit at a refusal or an area fault: RETRY_OVERFLOW is latched and its cause given; a refusal with FULL while
it is latched changes nothing there (R127). -/
def alertOverflow (d : OverflowDetail) (p : Part) : Part :=
  if d = .full ∧ p.isLatched .retryOverflow then p else raiseCause .retryOverflow (latch .retryOverflow p)

/-- OVERFLOW is set with a detail, RETRY_OVERFLOW is latched and raised, and the sweep takes the halt cause (R127,
R129). -/
def retryOverflow (d : OverflowDetail) (p : Part) : Part :=
  haltCause .retryOverflow (alertOverflow d (p.onRetry fun r => { r with overflow := true, detail := d }))

/-- A refused join leaves its context in SETTLING, unsettled, without its lock; in ABANDONING the context is discarded
(R111, R120, R127). -/
def refuseJoin (j : Join) (d : OverflowDetail) (p : Part) : Part :=
  let q := giveUpLock (.context j.place) (retryOverflow d (p.modContext j.place fun x => { x with joining := false }))
  if q.sweep.state = .abandoning then abandonCheck (discardContext j.place q) else q

/-- Nothing keeps an UNBINDING from its last stretch: the Order Table is empty and the sweep at rest (R185). -/
def Part.drains (p : Part) : Bool := p.entriesInUse = [] && p.sweep.atRest

/-- The engine may begin DMA of its own: BOUND, or UNBINDING outside its last stretch (R182, R185). The last stretch is
over as soon as a CLEAR takes the sweep out of rest, within that very command (DEDUCED, log 39). -/
def Part.mayBeginDma (p : Part) : Bool :=
  p.engine.state = .bound || (p.engine.state = .unbinding && !(p.engine.drained && p.drains))

/-- Waiting joins are taken in turn while the extension is not busy: each begins its write or is refused (R126, R127). With
RETRY_OVERFLOW latched for AREA_FAULT and the count at E both refusals of R127 fit; AREA_FAULT is tested first and stays
(DESIGN CHOICE, log 55). `fuel` bounds the joins taken. -/
def takeJoins : Nat → Part → Part
  | 0, p => p
  | fuel + 1, p =>
    match p.retry.joins with
    | [] => p
    | j :: rest =>
      if p.retry.busy = .idle && p.mayBeginDma then
        let q := p.onRetry fun r => { r with joins := rest }
        if p.isLatched .retryOverflow && p.retry.detail = .areaFault then takeJoins fuel (refuseJoin j .areaFault q)
        else if p.retry.capacity ≤ p.retry.count then takeJoins fuel (refuseJoin j .full q)
        else q.onRetry fun r => r.beginJoin j
      else p

/-- A refill begins when it may (R129). -/
def takeRefill (p : Part) : Part :=
  if p.retry.canRefill (p.isLatched .retryOverflow) && p.mayBeginDma then
    p.onRetry fun r => { r with busy := .refill false }
  else p

/-! ### A sweep band ends (R108, R58) -/

/-- A band has ended: its frames are released, and its context stays BANDING, settles, or in ABANDONING is discarded. A
discarded band's context does not settle for this attempt. -/
def sweepBandEnds (place : Nat) (p : Part) : Part :=
  match p.context? place, p.geometry.profile with
  | some c, some g =>
    let struck := c.band.any (fun b => b.stage = .discarded)
    let q := (releaseFrames (.sweepBand place) p).modContext place fun x => { x with band := none }
    if q.sweep.state = .abandoning then abandonCheck (discardContext place q)
    else if struck || c.nextRow < g.k then q
    else settle place (q.modContext place fun x => { x with phase := .settling })
  | _, _ => p

end Sys2Proof.Machine
end

