-- ==== Sys2Proof/Machine/Port.lean ====
section
/-! DEFINITION. The Member Port (chapter 5) between its owners and its lanes: handing over and completing requests,
delivering sectors, tags, reclaim, and what a frame parity error does to its owner (R58, R59). -/

namespace Sys2Proof.Machine

/-! ### Requests outstanding -/

/-- The request bound to an ISSUED tag. -/
def Tag.request : Tag → Option LaneRequest
  | .issued q _ => some q
  | _ => none

/-- Requests of a lane not yet completed: those on its tags, then those waiting (R64, R67). -/
def Lane.requests (l : Lane) : List LaneRequest := l.tags.filterMap Tag.request ++ l.sweepQueue ++ l.orderQueue

/-- The requests of an owner that have not completed to it. -/
def Part.outstanding (p : Part) (o : Owner) : List LaneRequest :=
  p.lanes.flatMap fun l => l.requests.filter (fun q => q.owner = o)

/-- A request covers a row. -/
def LaneRequest.covers (q : LaneRequest) (row : Nat) : Bool := q.row ≤ row && row < q.row + q.count

/-- No request of the owner covers the row. -/
def Part.rowQuiet (p : Part) (o : Owner) (row : Nat) : Bool := !(p.outstanding o).any (·.covers row)

/-- The outstanding request count: tags ISSUED (R67). -/
def Lane.outstanding (l : Lane) : Nat := (l.tags.filter (fun t => t.request.isSome)).length

/-- The quarantined tag count (R67). -/
def Lane.quarantined (l : Lane) : Nat := (l.tags.filter (fun t => t = .quarantined)).length

/-- The class of a request: its owner's (R63). -/
def LaneRequest.laneClass (q : LaneRequest) : LaneClass :=
  match q.owner with
  | .sweepBand _ => .sweep
  | .orderBand _ => .order

/-- A request joins the tail of its class queue (R63, R64). -/
def Lane.joinTail (l : Lane) (q : LaneRequest) : Lane :=
  match q.laneClass with
  | .sweep => { l with sweepQueue := l.sweepQueue ++ [q] }
  | .order => { l with orderQueue := l.orderQueue ++ [q] }

/-- A retry or a follow-up joins the head (R64). -/
def Lane.joinHead (l : Lane) (q : LaneRequest) : Lane :=
  match q.laneClass with
  | .sweep => { l with sweepQueue := q :: l.sweepQueue }
  | .order => { l with orderQueue := q :: l.orderQueue }

/-! ### Owners -/

/-- The stripe an owner's band works on. -/
def Part.ownerStripe (p : Part) (o : Owner) : Nat :=
  match o with
  | .sweepBand place => ((p.context? place).map (·.stripe)).getD 0
  | .orderBand e => ((p.extent? e).bind (·.stripe)).getD 0

/-- An order takes a stop cause unless it has one (R179, R180). -/
def stopOrder (e : Nat) (c : StopCause) (p : Part) : Part :=
  p.modExtent e fun x => { x with stop := x.stop.orElse fun _ => some c }

/-- A block of an owner's row takes its result (R26). -/
def recordResult (o : Owner) (row slot : Nat) (r : BlockResult) (p : Part) : Part :=
  match o with
  | .sweepBand place => p.modSweepBand place fun b => { b with results := b.results ++ [(row, slot, r)] }
  | .orderBand e => p.modRow e row fun w => { w with results := w.results ++ [(slot, r)] }

/-- The band in flight of a stripe context. -/
def Part.sweepBand? (p : Part) (place : Nat) : Option SweepBand := (p.context? place).bind (·.band)

/-- The output frames of a sweep job: the target's own, and for a mend the frame of the block it replaces (R51, R105). -/
def sweepOutputs (b : SweepBand) (row : Nat) (wanted : List Nat) : List Nat :=
  wanted.filterMap fun s => frameAt b.places row s (if s = b.target then .new else .old)

/-- The outputs of the jobs a sweep band has in progress. -/
def SweepBand.jobOutputs (b : SweepBand) : List Nat := b.jobs.flatMap fun j => sweepOutputs b j.row j.wanted

/-- A sweep band with a frame parity error is discarded: its jobs in progress end with BUFFER_PARITY (R47), BUFFER_PARITY
is latched and the sweep halts (R58). -/
def discardSweepBand (place : Nat) (p : Part) : Part :=
  let ended := spoilOutputs [] (((p.sweepBand? place).map (·.jobOutputs)).getD []) p
  haltCause .bufferParity
    (latch .bufferParity (ended.modSweepBand place fun b => { b with stage := .discarded, jobs := [] }))

/-- A row of an order band with a frame parity error takes no further part, and the order stops after its band
(R59). -/
def strikeRow (e row : Nat) (p : Part) : Part :=
  stopOrder e .bufferFault (p.modRow e row fun w => { w with phase := .done false, job := none })

/-- Frame parity errors are reported to the frames' owner (R56, R58, R59). -/
def frameError (o : Owner) (row : Nat) (frames : List Nat) (p : Part) : Part :=
  match o with
  | .sweepBand place => discardSweepBand place (markUnfit frames p)
  | .orderBand e => strikeRow e row (markUnfit frames p)

/-! ### Requests complete -/

/-- A WRITE completes to its owner: a mend notes its outcome (R107); a target write and an order's write are told apart
from others only by having completed (R106, R177). -/
def completeWrite (q : LaneRequest) (good : Bool) (p : Part) : Part :=
  match q.owner with
  | .sweepBand place =>
    if q.mend then
      p.modContext place fun c =>
        if good then { c with mendedRows := setBit c.mendedRows q.row } else { c with mendFailed := true }
    else p
  | .orderBand _ => p

/-- A request completes without a sector for any of its blocks: each block of a READ takes the erasure kind (R26). -/
def completeErased (q : LaneRequest) (k : ErasureKind) (p : Part) : Part :=
  if q.write then completeWrite q false p
  else (List.range q.count).foldl (fun x i => recordResult q.owner (q.row + i) q.slot (.erased k) x) p

/-- A request is handed over: to an ABSENT member it completes at once as ABSENT, otherwise it joins the tail of its
class queue (R63). -/
def handRequest (q : LaneRequest) (p : Part) : Part :=
  if p.isAbsent q.slot then completeErased q .absent p
  else p.modLane q.lane fun l => l.joinTail q

/-- Requests handed over in order. -/
def handRequests (qs : List LaneRequest) (p : Part) : Part := qs.foldl (fun x q => handRequest q x) p

/-- A request as its owner makes it (R63). -/
def newRequest (g : Profile) (p : Part) (o : Owner) (stripe : Nat) (write mend : Bool) (slot row count : Nat)
    (frames : List Nat) : LaneRequest :=
  { owner := o, write, slot, lane := (p.member slot).lane, lba := g.lba stripe row, count, row, frames, mend,
    retries := 0, origin := .first }

/-! ### Sectors delivered -/

/-- The trailer check of a delivered sector: a parity error gives no result, a TRAILER result is counted (R21, R56). -/
def checkDelivered (q : LaneRequest) (i : Nat) (p : Part) : Part :=
  let frame := q.frames.getD i 0
  if p.parityError frame then frameError q.owner (q.row + i) [frame] p
  else
    let f := p.frame frame
    let r := checkTrailer (p.ownerStripe q.owner) q.slot f.block f.trailer
    let counted := if r = .erased .trailer then countTrailer q.slot p else p
    recordResult q.owner (q.row + i) q.slot r counted

/-- A sector fills the frame of its block (R50). -/
def loadDelivered (q : LaneRequest) (sectors : List Sector) (i : Nat) (p : Part) : Part :=
  let s := sectors.getD i []
  loadFrame (q.frames.getD i 0) (s.take 4096) (s.drop 4096) p

/-- The sectors of an answer fill the request's frames in order, upsets strike, and each block is checked (R68, R69). -/
def deliver (q : LaneRequest) (sectors : List Sector) (upsets : List Nat) (p : Part) : Part :=
  let loaded := (List.range sectors.length).foldl (fun x i => loadDelivered q sectors i x) p
  (List.range sectors.length).foldl (fun x i => checkDelivered q i x) (strikeFrames upsets loaded)

/-! ### Tags and lanes -/

/-- A tag takes a value. -/
def setTag (lane tag : Nat) (t : Tag) (p : Part) : Part :=
  p.modLane lane fun l => { l with tags := modAt (fun _ => t) l.tags tag }

/-- A lane that takes answers (R62). -/
def Lane.takesAnswers (l : Lane) : Bool := (l.state = .opened || l.state = .reclaiming) && l.flushes = 0

/-- Reclaim: OPEN with 8 quarantined tags becomes RECLAIMING, RECLAIMING with fewer becomes OPEN, and RECLAIMING with no
request outstanding sends FLUSH (R74). -/
def Lane.reclaim (l : Lane) : Lane :=
  let state :=
    match l.state with
    | .opened => if 8 ≤ l.quarantined then LaneState.reclaiming else .opened
    | .reclaiming => if 8 ≤ l.quarantined then .reclaiming else .opened
    | s => s
  if state = .reclaiming ∧ l.outstanding = 0 then { l with state := .flushingReclaim, flushes := l.flushes + 1 }
  else { l with state := state }

/-- R74 on one lane. -/
def reclaimLane (lane : Nat) (p : Part) : Part := p.modLane lane Lane.reclaim

/-- A request rejoins the head of its class queue as a retry (R70, R72). -/
def retryRequest (q : LaneRequest) (p : Part) : Part :=
  p.modLane q.lane fun l => l.joinHead { q with retries := q.retries + 1, origin := .retry }

/-- The blocks behind a failing index, as a follow-up READ (R69). -/
def LaneRequest.followUp (q : LaneRequest) (j : Nat) : LaneRequest :=
  { q with lba := q.lba + j + 1, count := q.count - j - 1, row := q.row + j + 1, frames := q.frames.drop (j + 1),
           retries := 0, origin := .followUp }

end Sys2Proof.Machine
end

