-- ==== Sys2Proof/Machine/Absent.lean ====
section
/-! DEFINITION. A member is made ABSENT (R11, R12): the condition, the alerts, the halt causes, the orders that stop
(R178) and the lane that closes (R77). -/

namespace Sys2Proof.Machine

/-- Requests complete to their owners as ABSENT (R77). -/
def completeAbsent (qs : List LaneRequest) (p : Part) : Part := qs.foldl (fun x q => completeErased q .absent x) p

/-- The lane of a member made ABSENT: CLOSED, a FLUSH pending, its ISSUED tags QUARANTINED and its queues empty (R77). -/
def Lane.close (l : Lane) : Lane :=
  { l with
    state := .closed, flushes := if l.flushes = 0 then 1 else l.flushes,
    tags := l.tags.map fun t =>
      match t with
      | .issued _ _ => .quarantined
      | x => x,
    sweepQueue := [], orderQueue := [] }

/-- The Member Port closes a lane and completes its requests (R77). -/
def closeLane (lane : Nat) (p : Part) : Part := completeAbsent (p.lane lane).requests (p.modLane lane Lane.close)

/-- A stopped WRITE that is not in a band in flight leaves the order-pool queue and completes (R178). -/
def leaveAtStop (p : Part) (e : Nat) : Part :=
  match p.entry? e, p.extent? e with
  | some x, some ext =>
    if x.record.isWrite then
      match ext.band with
      | some b =>
        if b.granted then p
        else completeExtent e ((p.modExtent e fun y => { y with band := none }).onBuffer fun u =>
          { u with queue := u.queue.filter (fun w => w.1 ≠ e) })
      | none => completeExtent e p
    else p
  | _, _ => p

/-- A WRITE past its checks takes the stop cause ARRAY_FAILED (R178). -/
def stopIfWrite (p : Part) (e : Nat) : Part :=
  match p.entry? e with
  | some x => if x.record.isWrite then stopOrder e .arrayFailed p else p
  | none => p

/-- The array has become FAILED: every WRITE past its checks stops (R178), in increasing order of entry (log 19). -/
def stopWrites (p : Part) : Part :=
  (List.range 32).foldl leaveAtStop ((List.range 32).foldl stopIfWrite p)

/-- What the change to FAILED does (R12, R16). -/
def arrayFails (p : Part) : Part := stopWrites (haltCause .arrayFailed (raiseCause .arrayFailed p))

/-- A member is made ABSENT; one that is ABSENT already is left as it is (R11, R12). -/
def makeAbsent (slot : Nat) (p : Part) : Part :=
  let m := p.member slot
  if m.state = .online ∨ m.state = .target then
    let changed := raiseCause .memberDown (deriveFailed (p.modMember slot fun x => { x with state := .absent }))
    let told := if m.state = .target then haltCause .spareFault changed else changed
    let stopped := if changed.geometry.failed && !p.geometry.failed then arrayFails told else told
    closeLane m.lane stopped
  else p

end Sys2Proof.Machine
end

