-- ==== Sys2Proof/Machine/Bands.lean ====
section
/-! DEFINITION. How bands go on when something they wait for has come: sweep bands (R104 to R108), order bands (R167 to
R177), their row jobs (R36, R43 to R47) and their ends. -/

namespace Sys2Proof.Machine

/-! ### Rows -/

/-- A slot's result in a row: its own, or for a slot not read ABSENT or UNBUILT by its state (R26, R168). -/
def unreadResult (p : Part) (slot : Nat) : BlockResult :=
  if p.isAbsent slot then .erased .absent else .erased .unbuilt

/-- The result of a slot in a row of a sweep band (R104): the target is UNBUILT, a slot the band does not read ABSENT. -/
def SweepBand.result (b : SweepBand) (row slot : Nat) : BlockResult :=
  if slot = b.target then .erased .unbuilt
  else
    match b.results.find? (fun x => x.1 = row && x.2.1 = slot) with
    | some x => x.2.2
    | none => .erased .absent

/-- The result recorded for a slot of an order band's row. -/
def RowWork.result? (w : RowWork) (slot : Nat) : Option BlockResult :=
  (w.results.find? (fun x => x.1 = slot)).map (·.2)

/-- The result of a slot of an order band's row over all m slots (R168, R170, R175). -/
def RowWork.result (w : RowWork) (p : Part) (slot : Nat) : BlockResult := (w.result? slot).getD (unreadResult p slot)

/-- Every slot asked has its result. -/
def RowWork.settled (w : RowWork) : Bool := w.asked.all (fun s => (w.result? s).isSome)

/-- A result is an erasure. -/
def BlockResult.isErased : BlockResult → Bool
  | .good => false
  | .erased _ => true

/-- The rows a band works on. -/
def SweepBand.rows (b : SweepBand) : List Nat := (List.range b.count).map (· + b.row0)

/-- The block of a slot in a row, or none where the slot is erased. -/
def Part.usable (p : Part) (places : List FramePlace) (row : Nat) (erased : List Nat) (slot : Nat) : Option Block :=
  if erased.contains slot then none else some (p.blockAt places row slot .old)

/-- A row as a reconstruction job sees it (R36). -/
def Part.rowView (p : Part) (g : Profile) (stripe : Nat) (places : List FramePlace) (row : Nat) (erased : List Nat) :
    RowView :=
  { data := (List.range g.n).map fun d => p.usable places row erased (g.dataSlot stripe d),
    p := p.usable places row erased (g.pSlot stripe), q := p.usable places row erased (g.qSlot stripe) }

/-- The data slots of a stripe, in order of data index. -/
def Profile.dataSlots (g : Profile) (stripe : Nat) : List Nat := (List.range g.n).map (g.dataSlot stripe)

/-- The slots whose blocks a reconstruction reads: the usable data, and the parities its case takes (R37 to R42). -/
def reconstructionInputs (g : Profile) (stripe : Nat) (erased : List Nat) : List Nat :=
  let data := g.dataSlots stripe
  let lost := (data.filter (erased.contains ·)).length
  let ps := g.pSlot stripe
  let qs := g.qSlot stripe
  let takesP := !erased.contains ps && 0 < lost
  let takesQ := !erased.contains qs && (lost = 2 || (lost = 1 && erased.contains ps))
  data.filter (fun s => !erased.contains s) ++ (if takesP then [ps] else []) ++ (if takesQ then [qs] else [])

/-- The frames of slots of a row. -/
def framesOf (places : List FramePlace) (row : Nat) (part : FramePart) (slots : List Nat) : List Nat :=
  slots.filterMap fun s => frameAt places row s part

/-- The input frames, and of the output frames those an upset has struck under the job, that hold an error (R47, R56);
of several such inputs the job finds all (DESIGN CHOICE, log 63), and an output struck within the job's last step is met by
the job, not by the write gate (DESIGN CHOICE, log 65). -/
def Part.jobErrors (p : Part) (inputs outputs upsets : List Nat) : List Nat :=
  inputs.filter p.parityError ++ outputs.filter (fun f => upsets.contains f || (p.frame f).state = .unfit)

/-! ### Sweep bands -/

/-- The mendable slots of a RECOVERABLE row (R30). -/
def mendable (g : Profile) (p : Part) (b : SweepBand) (row : Nat) : List Nat :=
  g.slots.filter fun s =>
    s != b.target && g.mend && !p.isAbsent s &&
      match b.result row s with
      | .erased k => k.mendable
      | .good => false

/-- The erased slots of a row of a sweep band. -/
def SweepBand.erased (b : SweepBand) (g : Profile) (row : Nat) : List Nat :=
  g.slots.filter fun s => (b.result row s).isErased

/-- The class of a row of a sweep band (R28, R29, R105). -/
def SweepBand.rowClass (b : SweepBand) (g : Profile) (attempt row : Nat) : RowClass :=
  classifyRow (decide (attempt = g.retryPasses)) (g.slots.map (b.result row))

/-- The deferral reason with one more DEFERRABLE row (R105). -/
def mergeReason (old : Option Reason) (new : Reason) : Option Reason :=
  if old = some .timeout then some .timeout else some new

/-- The involved slots with a row's erased slots other than the target (R105). -/
def involve (slots : BitVec 24) (b : SweepBand) (erased : List Nat) : BitVec 24 :=
  (erased.filter (· ≠ b.target)).foldl setBit slots

/-- The slots' set of a row after classification: every erased slot but the target (R105). -/
def noteInvolved (place : Nat) (g : Profile) (b : SweepBand) (row : Nat) (p : Part) : Part :=
  p.modContext place fun c => { c with involved := involve c.involved b (b.erased g row) }

/-- One row of a sweep band is classified and its work given out (R105). An upset may strike the poison block between its
placing and the write gate (R57). -/
def classifySweepRow (place : Nat) (g : Profile) (c : Context) (b : SweepBand) (upsets : List Nat) (p : Part)
    (row : Nat) : Part :=
  let q := noteInvolved place g b row p
  match b.rowClass g c.attempt row with
  | .clean => q
  | .recoverable =>
    let mends := mendable g p b row
    q.modSweepBand place fun x =>
      { x with jobs := x.jobs ++ [{ row, erased := b.erased g row, wanted := b.target :: mends }],
               writeRows := x.writeRows ++ [row], mends := x.mends ++ mends.map (fun s => (row, s)) }
  | .deferrable reason => q.modContext place fun x => { x with deferral := mergeReason x.deferral reason }
  | .lost =>
    let poisoned :=
      match frameAt b.places row b.target .new with
      | some f => strikeFrames (upsets.filter (· = f)) (placeFrame f zeroBlock (poisonTrailer c.stripe) q)
      | none => q
    (poisoned.modContext place fun x => { x with lostRows := setBit x.lostRows row }).modSweepBand place fun x =>
      { x with writeRows := x.writeRows ++ [row] }

/-- The target WRITEs of a band: one for each run of consecutive rows to write (R106). -/
def targetWrites (g : Profile) (p : Part) (place stripe : Nat) (b : SweepBand) : List LaneRequest :=
  (consecutiveRuns b.writeRows).map fun (row, count) =>
    newRequest g p (.sweepBand place) stripe true false b.target row count
      ((List.range count).filterMap fun i => frameAt b.places (row + i) b.target .new)

/-- The mend WRITEs of a band: one for each mendable block (R107). -/
def mendWrites (g : Profile) (p : Part) (place stripe : Nat) (b : SweepBand) : List LaneRequest :=
  b.mends.map fun (row, slot) =>
    newRequest g p (.sweepBand place) stripe true true slot row 1 (framesOf b.places row .old [slot])

/-- The frames of a band's writes (R57). -/
def SweepBand.gateFrames (b : SweepBand) : List Nat :=
  b.writeRows.flatMap (fun r => framesOf b.places r .new [b.target]) ++
    b.mends.flatMap (fun (r, s) => framesOf b.places r .old [s])

/-- The band's write gate, and behind it its target and mend writes together (R57, R106, R107). -/
def writeSweepBand (place : Nat) (p : Part) : Part :=
  match p.geometry.profile, p.context? place with
  | some g, some c =>
    match c.band with
    | some b =>
      let bad := b.gateFrames.filter p.parityError
      if bad ≠ [] then frameError (.sweepBand place) b.row0 bad p
      else
        handRequests (targetWrites g p place c.stripe b ++ mendWrites g p place c.stripe b)
          (p.modSweepBand place fun x => { x with stage := .writing })
    | none => p
  | _, _ => p

/-- The band classifies its rows and goes on to its jobs, or with none to its writes (R105). -/
def classifySweepBand (place : Nat) (upsets : List Nat) (p : Part) : Part :=
  match p.geometry.profile, p.context? place with
  | some g, some c =>
    match c.band with
    | some b =>
      let q := b.rows.foldl (classifySweepRow place g c b upsets)
        (p.modSweepBand place fun x => { x with stage := .rebuilding })
      if (q.sweepBand? place).any (fun x => x.jobs = []) then writeSweepBand place q else q
    | none => p
  | _, _ => p

/-- A band with no request outstanding that has written, or was discarded, ends (R52, R108). -/
def endSweepBand (place : Nat) (p : Part) : Part :=
  match p.context? place with
  | some c =>
    match c.band with
    | some b =>
      if (b.stage = .writing ∨ b.stage = .discarded) ∧ p.outstanding (.sweepBand place) = [] then sweepBandEnds place p
      else p
    | none => p
  | none => p

/-- A sweep band goes on as far as it can. -/
def advanceSweepBand (upsets : List Nat) (p : Part) (place : Nat) : Part :=
  match p.context? place with
  | some c =>
    match c.band with
    | some b =>
      let q :=
        if b.stage = .reading ∧ p.outstanding (.sweepBand place) = [] then classifySweepBand place upsets p else p
      endSweepBand place q
    | none => p
  | none => p

/-- The outputs of a sweep job are placed with fresh trailers (R36, R46): the target's in its own frame, a mend's in the
frame of the block it replaces (R51). -/
def placeSweepOutputs (g : Profile) (stripe row : Nat) (b : SweepBand) (r : RowBlocks) (wanted : List Nat)
    (p : Part) : Part :=
  wanted.foldl (fun x s =>
    match frameAt b.places row s (if s = b.target then .new else .old) with
    | some f =>
      let block := r.ofRole (g.role stripe s)
      placeFrame f block (freshTrailer stripe s block) x
    | none => x) p

/-- A sweep band's reconstruction job ends: DONE with its blocks placed, or BUFFER_PARITY (R36, R47). -/
def endSweepJob (place row : Nat) (upsets : List Nat) (p : Part) : Part :=
  match p.geometry.profile, p.context? place with
  | some g, some c =>
    match c.band with
    | some b =>
      match b.jobs.find? (fun j => j.row = row) with
      | some j =>
        let struck := strikeFrames upsets p
        let inputs := framesOf b.places row .old (reconstructionInputs g c.stripe j.erased)
        let outputs := sweepOutputs b row j.wanted
        let bad := struck.jobErrors inputs outputs upsets
        let left := b.jobs.filter (fun x => x.row ≠ row)
        if bad ≠ [] then
          frameError (.sweepBand place) row bad
            (spoilOutputs bad outputs (struck.modSweepBand place fun x => { x with jobs := left }))
        else
          let q :=
            match reconstructRow (struck.rowView g c.stripe b.places row j.erased) with
            | some r => placeSweepOutputs g c.stripe row b r j.wanted struck
            | none => struck
          let done := q.modSweepBand place fun x => { x with jobs := left }
          if left = [] then writeSweepBand place done else done
      | none => p
    | none => p
  | _, _ => p

/-! ### Order bands: reads -/

/-- A slot an order band may read (R168). -/
def Part.readable (p : Part) (ext : Extent) (slot : Nat) : Bool :=
  ext.unbuilt ≠ some slot && ((p.member slot).state = .online || (p.member slot).state = .target)

/-- READs of an order band, grouped by slot into runs of consecutive rows (R168). -/
def orderReads (g : Profile) (p : Part) (e stripe : Nat) (places : List FramePlace) (pairs : List (Nat × Nat)) :
    List LaneRequest :=
  g.slots.flatMap fun s =>
    (consecutiveRuns ((pairs.filter (fun x => x.2 = s)).map (·.1))).map fun (row, count) =>
      newRequest g p (.orderBand e) stripe false false s row count
        ((List.range count).filterMap fun i => frameAt places (row + i) s .old)

/-- The rows of a band ask for slots, as (row, slots), and their READs are handed over together (R168). -/
def askReads (g : Profile) (e stripe : Nat) (places : List FramePlace) (asks : List (Nat × List Nat)) (p : Part) : Part :=
  let pairs := asks.flatMap fun (r, ss) => ss.map fun s => (r, s)
  handRequests (orderReads g p e stripe places pairs)
    (asks.foldl (fun x (r, ss) => x.modRow e r fun w => { w with asked := w.asked ++ ss }) p)

/-- An order's band, with what it takes to work on it. -/
structure BandView where
  g : Profile
  record : OrderRecord
  ext : Extent
  stripe : Nat
  band : OrderBand
deriving DecidableEq, Repr

/-- The band of an order past its checks. -/
def Part.bandView (p : Part) (e : Nat) : Option BandView :=
  match p.geometry.profile, p.entry? e, p.extent? e with
  | some g, some x, some ext =>
    match ext.stripe, ext.band with
    | some stripe, some band => some { g, record := x.record, ext, stripe, band }
    | _, _ => none
  | _, _, _ => none

/-- The erased slots of a row over all m slots (R28). -/
def RowWork.erased (w : RowWork) (g : Profile) (p : Part) : List Nat :=
  g.slots.filter fun s => (w.result p s).isErased

/-- The class of a row over all m slots for a host order (R28, R29). -/
def RowWork.rowClass (w : RowWork) (g : Profile) (p : Part) : RowClass :=
  classifyRow true (g.slots.map (w.result p))

/-- A row's slots not yet asked that can be read. -/
def unasked (v : BandView) (p : Part) (w : RowWork) (slots : List Nat) : List Nat :=
  slots.filter fun s => p.readable v.ext s && !w.asked.contains s

/-- The direct phase of a READ band: the readable slots of the requested blocks; a row with one that is not readable asks
the rest of its row too, as the reconstruction phase (R169). -/
def beginReadBand (e : Nat) (v : BandView) (p : Part) : Part :=
  let direct := v.band.rows.map fun w => (w.row, w.want.filter (p.readable v.ext))
  let sent := v.band.rows.filter fun w => w.want.any (fun s => !p.readable v.ext s)
  let rest := sent.map fun w =>
    (w.row, v.g.slots.filter fun s => p.readable v.ext s && !w.want.contains s)
  let marked := sent.foldl (fun x w => x.modRow e w.row fun r => { r with phase := .reconstructing }) p
  askReads v.g e v.stripe v.band.places rest (askReads v.g e v.stripe v.band.places direct marked)

/-- A READ row with an erasure among its direct results enters the reconstruction phase (R169). -/
def RowWork.needsReconstruction (w : RowWork) : Bool := w.phase = .direct && w.results.any (fun x => x.2.isErased)

/-- The rows that enter the reconstruction phase now ask for every readable slot not yet read (R170). -/
def enterReconstruction (e : Nat) (v : BandView) (p : Part) : Part :=
  let rows := v.band.rows.filter RowWork.needsReconstruction
  let asks := rows.map fun w => (w.row, unasked v p w v.g.slots)
  askReads v.g e v.stripe v.band.places asks
    (rows.foldl (fun x w => x.modRow e w.row fun r => { r with phase := .reconstructing }) p)

/-- The array block address of a slot's block in a row of the stripe in hand. -/
def BandView.address (v : BandView) (row slot : Nat) : Nat :=
  match v.g.role v.stripe slot with
  | .data d => v.g.blockAt v.stripe d row
  | _ => v.g.blockAt v.stripe 0 row

/-- The lower of a first lost address and another (R170). -/
def minLost (old : Option Nat) (new : Nat) : Option Nat := some ((old.map (min new)).getD new)

/-- A READ row's lost blocks are counted (R170). -/
def countLost (e : Nat) (addresses : List Nat) (p : Part) : Part :=
  p.modExtent e fun x =>
    { x with lost := x.lost + addresses.length, firstLost := addresses.foldl minLost x.firstLost }

/-- A READ row goes on: its direct blocks all GOOD, it is ready; its reconstruction results all in, it is classified
(R169, R170). -/
def advanceReadRow (e : Nat) (v : BandView) (p : Part) (w : RowWork) : Part :=
  if w.phase = .direct ∧ w.settled then p.modRow e w.row fun r => { r with phase := .ready, ready := w.want }
  else if w.phase = .reconstructing ∧ w.settled then
    let erased := w.erased v.g p
    let lost := w.want.filter (erased.contains ·)
    match w.rowClass v.g p with
    | .lost =>
      countLost e (lost.map (v.address w.row))
        (p.modRow e w.row fun r => { r with phase := .ready, ready := without w.want erased })
    | _ =>
      p.modRow e w.row fun r => { r with phase := .job, job := some { erased, wanted := lost, parity := [] } }
  else p

/-! ### Order bands: host DMA -/

/-- The pieces of `len` bytes of the buffer space from byte `skip` on (R163). -/
def scatterPieces : List Scatter → Nat → Nat → List DmaPiece
  | [], _, _ => []
  | x :: xs, skip, len =>
    if len = 0 then []
    else if x.length ≤ skip then scatterPieces xs (skip - x.length) len
    else
      let n := min len (x.length - skip)
      { address := x.address + BitVec.ofNat 64 skip, length := n } :: scatterPieces xs 0 (len - n)

/-- The moves of a band's blocks, in increasing extent offset (R163, R171, R172). -/
def blockMoves (v : BandView) (rows : List (Nat × List Nat)) : List BlockMove :=
  (List.range v.g.n).flatMap fun d =>
    let s := v.g.dataSlot v.stripe d
    (rows.filter (fun x => x.2.contains s)).map fun x =>
      { row := x.1, slot := s,
        pieces := scatterPieces v.record.scatter ((v.g.blockAt v.stripe d x.1 - v.record.firstBlock) * 4096) 4096 }

/-- The host DMA of a band becomes `d`. -/
def setBandDma (e : Nat) (d : BandDma) (p : Part) : Part := p.modBand e fun b => { b with dma := d }

/-! ### Order bands: writes -/

/-- The parity slots of the stripe whose members are not ABSENT (R43, R44, R173). -/
def presentParity (v : BandView) (p : Part) : List Nat :=
  [v.g.pSlot v.stripe, v.g.qSlot v.stripe].filter fun s => !p.isAbsent s

/-- The unwritten data slots of a row (R173). -/
def unwritten (v : BandView) (w : RowWork) : List Nat := without (v.g.dataSlots v.stripe) w.want

/-- The method of a row (R173). -/
def chooseMethod (v : BandView) (p : Part) (w : RowWork) : Method :=
  if presentParity v p = [] then .parityLess
  else if unwritten v w = [] then .fullNoReads
  else if w.want.all (p.readable v.ext) && (presentParity v p).all (p.readable v.ext) then .delta
  else .full

/-- The slots a method reads (R173). -/
def methodReads (v : BandView) (p : Part) (w : RowWork) : Method → List Nat
  | .parityLess => []
  | .fullNoReads => []
  | .delta => w.want ++ presentParity v p
  | .full => unasked v p w (unwritten v w)
  | .fullReconstruction => unasked v p w v.g.slots

/-- The row's writes, as (slot, frame part): the written data, the computed parity, and a reconstructed block whose slot
is the TARGET; slots whose members are ABSENT are left out (R176). -/
def rowWrites (p : Part) (w : RowWork) : List (Nat × FramePart) :=
  let parity := (w.job.map (·.parity)).getD []
  let rebuilt := if w.method = .fullReconstruction then (w.job.map (·.wanted)).getD [] else []
  ((w.want ++ parity).map (fun s => (s, FramePart.new)) ++
      (rebuilt.filter (fun s => (p.member s).state = .target)).map (fun s => (s, FramePart.old))).filter
    fun x => !p.isAbsent x.1

/-- A row's write gate, and behind it its one-sector WRITEs (R57, R176). -/
def writeRow (e row : Nat) (p : Part) : Part :=
  match p.bandView e with
  | some v =>
    match v.band.row? row with
    | some w =>
      let writes := rowWrites p w
      let frames := writes.flatMap fun x => framesOf v.band.places row x.2 [x.1]
      let bad := frames.filter p.parityError
      if bad ≠ [] then frameError (.orderBand e) row bad p
      else
        handRequests (writes.map fun x =>
            newRequest v.g p (.orderBand e) v.stripe true false x.1 row 1 (framesOf v.band.places row x.2 [x.1]))
          (p.modRow e row fun r => { r with phase := .writing })
    | none => p
  | none => p

/-- A row's job is handed over (R36, R43, R44, R45). -/
def handJob (e row : Nat) (j : RowJob) (p : Part) : Part :=
  p.modRow e row fun r => { r with phase := .job, job := some j }

/-- A row reads its old data by the full method, or full-row with reconstruction (R173 to R175). -/
def moveToMethod (e : Nat) (v : BandView) (m : Method) (p : Part) (w : RowWork) : Part :=
  p.modRow e w.row fun r => { r with method := m, phase := .reading, asked := w.asked ++ methodReads v p w m, job := none }

/-- Rows move to a method and their reads are handed over together. -/
def moveRows (e : Nat) (v : BandView) (m : Method) (rows : List RowWork) (p : Part) : Part :=
  let pairs := rows.flatMap fun w => (methodReads v p w m).map fun s => (w.row, s)
  handRequests (orderReads v.g p e v.stripe v.band.places pairs) (rows.foldl (moveToMethod e v m) p)

/-- A DELTA row whose reads are all in hands over its job, with the erased inputs named (R174). A row left with no parity
to compute goes on to its writes (R43). -/
def advanceDelta (e : Nat) (v : BandView) (p : Part) (w : RowWork) : Part :=
  let erased := w.asked.filter fun s => (w.result p s).isErased
  let parity := presentParity v p
  if erased = [] ∧ parity = [] then writeRow e w.row p
  else handJob e w.row { erased, wanted := [], parity } p

/-- A FULL row's unwritten data are all GOOD (R175). -/
def fullInputsGood (v : BandView) (p : Part) (w : RowWork) : Bool :=
  (unwritten v w).all fun s => !(w.result p s).isErased

/-- A full-row write with reconstruction hands over its job, RECOVERABLE or LOST (R175). -/
def handReconstruction (e : Nat) (v : BandView) (p : Part) (w : RowWork) : Part :=
  let erased := w.erased v.g p
  handJob e w.row
    { erased, wanted := (unwritten v w).filter (erased.contains ·), parity := presentParity v p } p

/-- The rows of a WRITE band in a method whose reads are all in. -/
def readyIn (v : BandView) (m : Method) : List RowWork :=
  v.band.rows.filter fun w => w.phase = .reading && w.method = m && w.settled

/-- The rows of a WRITE band by DELTA go on (R174). -/
def advanceDeltas (e : Nat) (p : Part) : Part :=
  match p.bandView e with
  | some v => (readyIn v .delta).foldl (advanceDelta e v) p
  | none => p

/-- The rows by FULL go on: to their jobs, or together to full-row with reconstruction (R175). -/
def advanceFulls (e : Nat) (p : Part) : Part :=
  match p.bandView e with
  | some v =>
    let rows := readyIn v .full
    let good := rows.filter (fullInputsGood v p)
    let bad := rows.filter fun w => !fullInputsGood v p w
    moveRows e v .fullReconstruction bad
      (good.foldl (fun x w => handJob e w.row { erased := [], wanted := [], parity := presentParity v p } x) p)
  | none => p

/-- The rows by full-row with reconstruction go on (R175). -/
def advanceReconstructions (e : Nat) (p : Part) : Part :=
  match p.bandView e with
  | some v => (readyIn v .fullReconstruction).foldl (handReconstruction e v) p
  | none => p

/-- A row whose writes have all completed is completed; one struck at issue is done with already (R59, R177). -/
def finishWrites (e : Nat) (p : Part) : Part :=
  match p.bandView e with
  | some v =>
    v.band.rows.foldl (fun x w =>
      if w.phase = .writing ∧ p.rowQuiet (.orderBand e) w.row then
        x.modRow e w.row fun r => { r with phase := .done true }
      else x) p
  | none => p

/-! ### Order bands end -/

/-- The row is done with. -/
def RowPhase.isDone : RowPhase → Bool
  | .done _ => true
  | _ => false

/-- The leading completed rows of a band (R171, R180). -/
def leadingDone : List RowWork → Nat
  | [] => 0
  | w :: ws => if w.phase = .done true then leadingDone ws + 1 else 0

/-- The band has ended: it releases its frames, its completed rows are counted, and the order stops, or goes on with the
stripe or the next one (R55, R59, R166, R167, R171, R180). -/
def orderBandEnds (e : Nat) (v : BandView) (p : Part) : Part :=
  let q := releaseFrames (.orderBand e)
    (p.modExtent e fun x => { x with band := none, rowsDone := x.rowsDone + leadingDone v.band.rows })
  if v.ext.stop.isSome then completeExtent e q
  else if v.ext.rowsLeft ≠ [] then askBand e q
  else nextStripe e q

/-- The band ends when every row is done with, no request is outstanding and no host DMA is in flight (R55). -/
def endOrderBand (e : Nat) (p : Part) : Part :=
  match p.bandView e with
  | some v =>
    if v.band.granted ∧ v.band.dma = .idle ∧ v.band.rows.all (fun w => w.phase.isDone) ∧ p.outstanding (.orderBand e) = []
    then orderBandEnds e v p
    else p
  | none => p

/-- The rows' ready slots, for the delivery. -/
def readyRows (rows : List RowWork) : List (Nat × List Nat) :=
  (rows.filter (fun w => w.phase = .ready)).map fun w => (w.row, w.ready)

/-- Rows with nothing left to deliver are completed (R171). -/
def completeReady (e : Nat) (p : Part) : Part :=
  p.modBand e fun b =>
    { b with rows := b.rows.map fun w => if w.phase = .ready then { w with phase := .done true } else w }

/-- When every row of a READ band has its blocks ready or lost, the delivery begins; with none ready, the rows are
completed (R171). -/
def beginDelivery (e : Nat) (p : Part) : Part :=
  match p.bandView e with
  | some v =>
    if v.band.granted ∧ v.band.dma = .idle ∧ v.band.rows.all (fun w => w.phase = .ready || w.phase.isDone) ∧
        v.band.rows.any (fun w => w.phase = .ready) then
      match blockMoves v (readyRows v.band.rows) with
      | [] => completeReady e p
      | moves => setBandDma e (.delivery moves) p
    else p
  | none => p

/-- A READ band's rows go on (R169, R170). -/
def advanceReads (e : Nat) (p : Part) : Part :=
  match p.bandView e with
  | some v =>
    let entered := enterReconstruction e v p
    match entered.bandView e with
    | some u => u.band.rows.foldl (advanceReadRow e u) entered
    | none => entered
  | none => p

/-- An order band in flight goes on as far as it can. -/
def advanceOrderBand (p : Part) (e : Nat) : Part :=
  match p.bandView e with
  | some v =>
    if v.band.granted then
      if v.record.isWrite then
        endOrderBand e (finishWrites e (advanceReconstructions e (advanceFulls e (advanceDeltas e p))))
      else endOrderBand e (beginDelivery e (advanceReads e p))
    else p
  | none => p

/-- Every band goes on as far as it can, in increasing order of place and then of entry (log 21); `upsets` are the frames
struck within the step. -/
def advanceBands (upsets : List Nat) (p : Part) : Part :=
  (List.range 32).foldl advanceOrderBand ((List.range 4).foldl (advanceSweepBand upsets) p)

end Sys2Proof.Machine
end

