-- ==== Sys2Proof/Machine/Formats.lean ====
section
/-! DEFINITION. What the part writes of its own state: status-page words and the report (R192, R194, R208), and the
register values it returns (R195, R199, R209). Reserved bytes and bits are 0 (R202), encoded fields hold one of their
codes (R207). -/

namespace Sys2Proof.Machine

/-! ### Codes -/

/-- Engine state codes (R206). -/
def EngineState.code : EngineState → Nat
  | .unbound => 0
  | .binding => 1
  | .bound => 2
  | .unbinding => 3

/-- Intake state codes (R206). -/
def IntakeState.code : IntakeState → Nat
  | .stopped => 0
  | .following => 1
  | .parked => 2
  | .faulted => 3

/-- One bit as a number. -/
def bitOf (b : Bool) : Nat := if b then 1 else 0

/-- A number in the bits of a word from `low` on. -/
def atBit (low n : Nat) : Nat := n * 2 ^ low

/-! ### Status page (R194, R208) -/

/-- The oldest record fetched or being fetched and not yet taken, or 0 (R185, R189, R194). -/
def Intake.nextRecord (i : Intake) : Word :=
  match i.holding with
  | r :: _ => r.address
  | [] =>
    if i.fetch = .live then i.fetchAddress
    else if i.state = .stopped ∨ i.state = .faulted then i.leftover
    else 0

/-- Store activity (R206). -/
def CheckpointStore.activity (c : CheckpointStore) : Nat :=
  match c.write with
  | none => 0
  | some _ => if c.again then 2 else 1

/-- The members word: two bits a slot (R208). -/
def membersWord : List Member → Nat
  | [] => 0
  | m :: ms => m.state.code + 4 * membersWord ms

/-- A status-page word's current value (R208). Bit 17 of the pace word, the pacing mode, is that of the installed set
(R162), and 0 while none is installed (DESIGN CHOICE, log 58); the bits of a word to which the table gives no field are 0
(DESIGN CHOICE, log 74). -/
def Part.statusWord (p : Part) (i : Nat) : Nat :=
  match i with
  | 0 => p.engine.state.code + atBit 8 p.alerts.latched.toNat
  | 1 => p.intake.state.code + (if p.intake.state = .faulted then atBit 8 (p.intake.faultAddress.toNat % 2 ^ 56) else 0)
  | 2 => (p.intake.parked.getD 0).toNat
  | 3 => p.intake.nextRecord.toNat
  | 4 => p.entriesInUse.length + atBit 8 p.backlog
  | 5 => if p.geometry.profile.isSome then 1 + atBit 8 p.conditionCode + atBit 16 p.erasures else 0
  | 6 => if p.geometry.profile.isSome then membersWord p.geometry.members else 0
  | 7 => p.sweep.state.code + atBit 8 p.sweep.pass.code + atBit 16 p.sweep.haltSet.toNat
  | 8 => p.sweep.watermark
  | 9 =>
    p.retry.onChip.length + atBit 8 p.retry.count + atBit 24 (bitOf p.retry.spilled) + atBit 25 (bitOf p.retry.overflow) +
      atBit 26 p.retry.detail.code
  | 10 =>
    p.findings.writeIndex + atBit 16 p.stagedCount + atBit 20 p.reservations + atBit 32 p.findings.lastSequence
  | 11 => (p.store.last.map (·.1)).getD 0
  | 12 =>
    (p.store.last.map (·.2.1)).getD 0 + atBit 32 ((p.store.last.map (·.2.2)).getD 0) + atBit 40 p.store.activity
  | 13 =>
    p.pace.budget + atBit 16 (bitOf p.pace.track) + atBit 17 (bitOf (p.pace.installed.any (·.adaptive))) +
      atBit 24 p.pace.lastBacklog
  | 14 => p.alerts.pending.toNat + atBit 16 p.alerts.topCode
  | _ => 0

/-- The word as it is written. -/
def Part.statusValue (p : Part) (i : Nat) : Word := BitVec.ofNat 64 (p.statusWord i)

/-- Where a word of the status page lies: words are 8 bytes, from the status page address on (R194, R208). -/
def Part.statusAddress (p : Part) (i : Nat) : Word := (p.intake.statusPage.getD 0) + BitVec.ofNat 64 (8 * i)

/-- The write of a status-page word with its current value (R194). -/
def Part.statusWrite (p : Part) (i : Nat) : HostWrite := wordWrite (p.statusAddress i) (p.statusValue i)

/-! ### The report (R192, R208) -/

/-- `n` reserved bytes (R202). -/
def reserved (n : Nat) : List Byte := List.replicate n 0

/-- Bytes of fields that nothing gives a value, numbered from `first` (log 22). -/
def emptyFields (count first n : Nat) : List Byte := (List.range n).map fun i => Config.emptyField count (first + i)

/-- A Member Table record in the report (R208): 16 bytes. -/
def Part.memberBytes (p : Part) (slot : Nat) : List Byte :=
  let m := p.member slot
  let mapped := m.state ≠ .unmapped
  leBytes 1 m.lane ++ leBytes 1 m.state.code ++ leBytes 1 m.consecutive ++
    leBytes 1 (if mapped then (p.lane m.lane).quarantined else 0) ++
    leBytes 1 (if mapped then (p.lane m.lane).outstanding else 0) ++ reserved 1 ++
    leBytes 2 m.medium ++ leBytes 2 m.timeouts ++ leBytes 2 m.trailers ++ reserved 4

/-- A lane's queue lengths in the report (R208). -/
def Part.laneBytes (p : Part) (l : Nat) : List Byte :=
  leBytes 2 (p.lane l).sweepQueue.length ++ leBytes 2 (p.lane l).orderQueue.length

/-- A byte of a coded field that nothing gives a value: one of the field's codes 0 to `codes − 1` (R207; log 22). -/
def emptyCode (count first codes : Nat) : List Byte := [BitVec.ofNat 8 ((Config.emptyField count first).toNat % codes)]

/-- A taken mark that nothing gives a value: 0 to 3, or 0xFF (R207, R208; log 22). -/
def emptyTaken (count first : Nat) : List Byte :=
  (emptyCode count first 5).map fun b => if b = 4 then 0xFF else b

/-- A window place in the report (R208; its settled and present bytes are 1 or 0, DESIGN CHOICE, log 68): 16 bytes. -/
def Part.placeBytes (p : Part) (place : Nat) : List Byte :=
  match p.context? place with
  | some c =>
    leBytes 4 c.stripe ++ leBytes 1 c.attempt ++ leBytes 1 c.source.code ++ leBytes 1 c.phase.code ++
      leBytes 1 (bitOf c.settled) ++ leBytes 1 c.nextRow ++ [1] ++ reserved 6
  | none =>
    emptyFields p.freeCount (16 * place) 5 ++ emptyCode p.freeCount (16 * place + 5) 2 ++
      emptyCode p.freeCount (16 * place + 6) 3 ++ emptyCode p.freeCount (16 * place + 7) 2 ++
      emptyFields p.freeCount (16 * place + 8) 1 ++ [0] ++ reserved 6

/-- The sweep summary (R208): 96 bytes. -/
def Part.sweepBytes (p : Part) : List Byte :=
  leBytes 1 p.sweep.state.code ++ leBytes 1 p.sweep.pass.code ++ leBytes 1 p.sweep.haltSet.toNat ++
    leBytes 1 p.stagedCount ++ leBytes 1 p.reservations ++ reserved 3 ++
    leBytes 4 p.sweep.watermark ++ leBytes 4 p.sweep.next ++ leBytes 4 p.sweep.settleCount ++ reserved 12 ++
    (List.range 4).flatMap p.placeBytes

/-- An OCCUPIED Retry List place (R208). -/
def RetryEntry.bytes (e : RetryEntry) : List Byte :=
  [1] ++ leBytes 1 e.attempt ++ leBytes 1 e.reason.code ++ leBytes 1 (e.taken.getD 0xFF) ++ leBytes 4 e.stripe ++ reserved 8

/-- A Retry List place without an entry (R208): its state, 2 RESERVED or 0 FREE, and open values (log 22). -/
def emptyPlaceBytes (freeCount first state : Nat) : List Byte :=
  leBytes 1 state ++ emptyFields freeCount first 1 ++ emptyCode freeCount (first + 1) 3 ++ emptyTaken freeCount (first + 2) ++
    emptyFields freeCount (first + 3) 4 ++ reserved 8

/-- The 32 Retry List places in on-chip order (R208): the OCCUPIED ones in the order of R124, and behind them a RESERVED
one, then the FREE ones (DESIGN CHOICE, log 57). -/
def Part.retryBytes (p : Part) : List Byte :=
  let occupied := p.retry.onChip.map RetryEntry.bytes
  (List.range 32).flatMap fun i =>
    match occupied[i]? with
    | some b => b
    | none =>
      emptyPlaceBytes p.freeCount (64 + 16 * i) (if p.retry.refilling && i = occupied.length then 2 else 0)

/-- A parameter set as SET PACE parameters 0 and 1, with its presence byte, 1 or 0 (DESIGN CHOICE, log 68): 16 bytes (R203,
R208). -/
def paceSetBytes (freeCount first : Nat) (s : Option PaceSet) : List Byte :=
  match s with
  | some x =>
    leBytes 1 (bitOf x.adaptive) ++ leBytes 2 x.floor ++ leBytes 2 x.ceiling ++ leBytes 1 x.low ++ leBytes 1 x.high ++
      leBytes 1 x.window ++ leBytes 2 x.initial ++ [1] ++ reserved 5
  | none => emptyCode freeCount first 2 ++ emptyFields freeCount (first + 1) 9 ++ [0] ++ reserved 5

/-- The pace state in the report (R162, R208; the timer-running byte is 1 or 0, DESIGN CHOICE, log 68): 64 bytes. -/
def Part.paceBytes (p : Part) : List Byte :=
  paceSetBytes p.freeCount 576 p.pace.installed ++ paceSetBytes p.freeCount 592 p.pace.next ++
    leBytes 2 p.pace.budget ++ leBytes 2 p.pace.remaining ++ leBytes 1 (bitOf p.pace.track) ++ leBytes 1 p.pace.inBand ++
    leBytes 1 p.pace.drift ++ leBytes 1 (bitOf p.pace.below) ++ leBytes 1 p.pace.lastBacklog ++
    leBytes 1 (bitOf p.pace.timer.isSome) ++ reserved 22

/-- The 2,048 bytes of a report; the slots are read as the store holds them (R192, R208). -/
def Part.reportBytes (p : Part) : List Byte :=
  (List.range 24).flatMap p.memberBytes ++ (List.range 24).flatMap p.laneBytes ++ reserved 32 ++
    p.store.slot 0 ++ p.store.slot 1 ++ p.sweepBytes ++ reserved 160 ++ p.retryBytes ++
    (leBytes 4 p.retry.head ++ leBytes 4 p.retry.tail ++ leBytes 4 p.retry.count ++ reserved 4) ++
    p.paceBytes ++ reserved 176

/-! ### Registers (R195, R196, R199, R209) -/

/-- Bits no layout lists keep an open value; the listed ones, given by `mask`, are `value` (log 6). -/
def withSpare (mask value : Nat) (freeCount : Nat) : Word :=
  (BitVec.ofNat 64 value &&& BitVec.ofNat 64 mask) ||| (Config.spareBits freeCount &&& ~~~(BitVec.ofNat 64 mask))

/-- A read of ALERT (R209). -/
def Part.alertValue (p : Part) : Word :=
  withSpare 0x1F0F0FFF
    (p.alerts.pending.toNat + atBit 16 p.alerts.topCode + atBit 24 p.alerts.mask + atBit 28 (bitOf p.alerts.pulseMode))
    p.freeCount

/-- A read of CONTROL (R209). -/
def Part.controlValue (p : Part) : Word :=
  withSpare 0x33FFF
    (p.engine.state.code + atBit 8 p.alerts.latched.toNat + atBit 16 (bitOf p.regs.bindFailed) +
      atBit 17 (bitOf p.regs.refused))
    p.freeCount

/-- The five registers (R195). -/
inductive RegName where
  | anchor | nudge | logTaken | alert | control
deriving DecidableEq, Repr

/-- What a read of a register returns (R195, R196, R199). -/
def Part.readRegister (p : Part) : RegName → Word
  | .anchor => p.regs.anchor
  | .nudge => 0
  | .logTaken => BitVec.ofNat 64 p.logTaken
  | .alert => p.alertValue
  | .control => p.controlValue

/-- The bytes `first` to `first + count − 1` of a register, which a narrow read returns (R195). -/
def narrow (value : Word) (first count : Nat) : Word :=
  BitVec.ofNat 64 ((value.toNat >>> (8 * first)) % 2 ^ (8 * count))

end Sys2Proof.Machine
end

