-- ==== Sys2Proof/Machine/Intake.lean ====
section
/-! DEFINITION. The Order Intake and the status-page writer (12.3 to 12.5): CHAIN_FAULT, parking, dispatch and fetching,
the BARRIER, the last stretch of UNBINDING; the log writer and the staging reservations; and what every command ends
with. -/

namespace Sys2Proof.Machine

/-! ### CHAIN_FAULT and parking -/

/-- A DMA read in flight whose result is to be discarded (R185, R189). -/
def ReadFlight.discard : ReadFlight → ReadFlight
  | .none => .none
  | .live => .stale
  | .stale => .stale

/-- CHAIN_FAULT as the intake takes it: FAULTED unless STOPPED, without a fetch position or a parked record, its holding
list emptied (R189). That the parked record of a STOPPED intake is lost as well, although R185 takes the restart point of
the chain from it, is the model's reading of R189 (DEDUCED, log 71). -/
def Intake.fault (i : Intake) (address : Word) : Intake :=
  { i with state := if i.state = .stopped then .stopped else .faulted, fetchPosition := none, parked := none,
           holding := [], faultAddress := address, leftover := i.nextRecord, fetch := i.fetch.discard,
           reread := i.reread.discard, resumeRead := i.resumeRead.discard }

/-- CHAIN_FAULT is latched and raised with its faulting address (R189). -/
def chainFault (address : Word) (p : Part) : Part :=
  (raiseCause .chainFault (latch .chainFault p)).onIntake fun i => i.fault address

/-- A reread of the parked record's link begins when a nudge asks for one and none is in flight (R187, R188). -/
def Intake.rereadIfAsked (i : Intake) : Intake :=
  if i.state = .parked ∧ i.latch ∧ i.reread = .none then { i with latch := false, reread := .live } else i

/-- The intake parks on a record (R187). -/
def Intake.park (i : Intake) (address : Word) : Intake :=
  ({ i with state := .parked, parked := some address, fetchPosition := none } : Intake).rereadIfAsked

/-- The intake follows the chain from an address (R187, R188, R189). -/
def Intake.follow (i : Intake) (address : Word) : Intake :=
  { i with state := .following, fetchPosition := some address, parked := none }

/-- UNBIND stops the intake; records being fetched or held are not taken (R185). -/
def Intake.stop (i : Intake) : Intake :=
  { i with state := .stopped, fetchPosition := none, parked := i.parked, latch := false, holding := [],
           leftover := i.nextRecord, fetch := i.fetch.discard, reread := i.reread.discard,
           resumeRead := i.resumeRead.discard }

/-! ### Dispatch (R190) and fetching (R187) -/

/-- The lowest free Order Table entry. -/
def OrderTable.free (t : OrderTable) : Option Nat := lowestIndex Option.isNone t.entries

/-- A record is placed in an entry and handed to its owner (R190, log 2). -/
def OrderTable.place (t : OrderTable) (e : Nat) (r : OrderRecord) : OrderTable :=
  { entries := t.entries.set e (some { record := r, work := .handed }), handed := t.handed ++ [e] }

/-- One dispatch, when its conditions hold; a BARRIER becomes the hold (R190, R191). -/
def dispatchOne (p : Part) : Part :=
  match p.intake.holding, p.table.free with
  | r :: rest, some e =>
    if p.engine.state = .bound ∧ p.intake.state ≠ .stopped ∧ p.intake.barrier = none then
      (p.onTable fun t => t.place e r).onIntake fun i =>
        { i with holding := rest, barrier := if r.kind = kindBarrier then some e else none }
    else p
  | _, _ => p

/-- Dispatches follow one another while their conditions hold (R190). -/
def dispatchAll : Nat → Part → Part
  | 0, p => p
  | n + 1, p => dispatchAll n (dispatchOne p)

/-- A fetch begins when the intake follows, a position stands, the holding list has room and no fetch is in flight
(R187). -/
def beginFetch (p : Part) : Part :=
  match p.intake.state, p.intake.fetchPosition, p.intake.depth with
  | .following, some a, some depth =>
    if p.engine.state = .bound ∧ p.intake.holding.length < depth ∧ p.intake.fetch = .none then
      p.onIntake fun i => { i with fetch := .live, fetchAddress := a }
    else p
  | _, _, _ => p

/-- A BARRIER before which no order is left completes (R191). -/
def completeBarrier (p : Part) : Part :=
  match p.intake.barrier with
  | some e =>
    if p.entriesInUse = [e] ∧ (p.entry? e).any (fun x => x.work = .waiting) then
      finishOrder e .ok (detail 0) (detail 0) p
    else p
  | none => p

/-! ### The status page (R194) -/

/-- A word against its current value and the write that carries it: a change begins the write, or waits for the one in
flight (R194). -/
def StatusWord.sync (w : StatusWord) (now : Word) (write : HostWrite) : StatusWord :=
  match w.writing with
  | none => if w.value ≠ now ∨ w.waiting then { value := now, writing := some write, waiting := false } else w
  | some v => if v ≠ write then { w with waiting := true } else w

/-- Every word synchronised, from number `i` on. -/
def syncWords (p : Part) : Nat → List StatusWord → List StatusWord
  | _, [] => []
  | i, w :: ws => w.sync (p.statusValue i) (p.statusWrite i) :: syncWords p (i + 1) ws

/-- The status page follows the part's state while the engine is BOUND or UNBINDING (R194). -/
def syncStatus (p : Part) : Part :=
  if p.mayBeginDma then p.onStatus fun ws => syncWords p 0 ws else p

/-- The last stretch of UNBINDING: it begins with the table empty and the sweep at rest (R185), and a CLEAR that takes a
halted sweep out of rest holds the unbind until the sweep rests again (R116). -/
def drainCheck (p : Part) : Part :=
  p.onEngine fun e => { e with drained := e.state = .unbinding && p.drains }

/-- The attention output follows its mode (R200). -/
def driveAttention (p : Part) : Part := p.onAlerts fun a => { a with attention := a.output }

/-- What every command ends with: a BARRIER that can complete, dispatch, a fetch, the status page, the drain of an
UNBINDING, and the attention output. It touches no block but the intake, the Order Table, the status page, the engine and
the output. -/
def finish (p : Part) : Part :=
  driveAttention (drainCheck (syncStatus (beginFetch (dispatchAll p.intake.holding.length (completeBarrier p)))))

/-! ### The log writer and the reservations (R133, R135, R136) -/

/-- The log writer takes the staging head, or finds the log full and opens an episode (R135, R136). -/
def startLog (p : Part) : Part :=
  if p.mayBeginDma && !p.isLatched .logFault && p.findings.writer = .idle && p.findings.staged ≠ [] then
    if p.logFull then
      if p.findings.episode then p
      else raiseCause .logFull (p.onFindings fun f => { f with episode := true })
    else p.onFindings Findings.beginBody
  else p

/-- One reservation granted to the head of the waiting contexts, which then asks for its lock (R102, R133). -/
def grantReservation (p : Part) : Part :=
  match p.findings.waiting with
  | place :: rest =>
    if p.stagingFree then
      contextReturns ((p.onFindings fun f => { f with waiting := rest }).modContext place fun c =>
        { c with reserved := true }) place
    else p
  | [] => p

/-- Reservations granted while entries are free: at most four contexts wait (R133). -/
def grantReservations (p : Part) : Part := grantReservation (grantReservation (grantReservation (grantReservation p)))

/-- What a change to the sweep, the Retry List or the staging queue lets begin, at the end of the step: waiting joins, begun
or refused, before refills (log 25), then reservations, whose contexts ask for their locks now, after every other lock
request of the step (DESIGN CHOICE, log 73), then the log writer. -/
def settleWork (p : Part) : Part := startLog (grantReservations (takeRefill (takeJoins 8 p)))

end Sys2Proof.Machine
end

