-- ==== Sys2Proof/Machine/Store.lean ====
section
/-! DEFINITION. What the end of a checkpoint write and the slot read of STARTING do (R98, R99, R121, R143, R145, R147), and
the start of a sweep (R97, R99). -/

namespace Sys2Proof.Machine

/-! ### A sweep starts (R99) -/

/-- A START SWEEP that passes its checks begins the sweep at W, and its order completes with OK (R99, R140, R158). -/
def beginSweep (e watermark generation : Nat) (p : Part) : Part :=
  let target := p.targetSlot
  let reset := ((((p.onRetry fun r => r.startSweep (p.isLatched .retryOverflow)).onSweep fun s =>
      { s with haltSet := 0, settleCount := 0, window := List.replicate 4 none, watermark := watermark, next := watermark,
               pass := .main, startWait := none }).onPace Pace.startSweep).onStore fun c => { c with target := target })
  let begun := if watermark < p.stripeCount then enterPass reset else enterFinishing reset
  finishOrder e .ok (detail watermark) (detail generation) begun

/-- A start that fails at STARTING: the sweep returns to IDLE (R98, R123). Detail B carries the generation of the slot
read (R147). -/
def failStart (e : Nat) (status : Status) (generation : Option Word) (p : Part) : Part :=
  finishOrder e status none generation (enterIdle (p.onSweep fun s => { s with startWait := none }))

/-- The slot a checkpoint's target is compared with: the member that is TARGET, or, when it was made ABSENT during
STARTING, the profile's (R98, R147; log 23). -/
def Part.comparedTarget (p : Part) (g : Profile) : Option Nat :=
  p.targetSlot.orElse fun _ => lowestIndex (fun x => x = .target) g.states

/-- The slot read's result, acted on (R98, R147): the tests of R147 in order, and before the pass the sweep's own check
that a member is TARGET and the array not FAILED. -/
def slotReadEnds (e : Nat) (p : Part) : Part :=
  match p.geometry.profile, p.store.current with
  | some g, some i =>
    let b := p.store.slot i
    let generation := detail (slotHead b)
    if slotState b = codeAbandoned then failStart e .noCheckpoint generation p
    else if slotSignature b ≠ g.signature ∨ slotM b ≠ g.m ∨ slotStripes b ≠ g.stripes ∨ slotK b ≠ g.k ∨
        p.comparedTarget g ≠ some (slotTarget b) then failStart e .mismatch generation p
    else if p.targetSlot = none ∨ p.condition = .failed then failStart e .busy generation p
    else beginSweep e (if slotState b = codeDone then g.stripes else slotResume b) (slotHead b) p
  | _, _ => failStart e .noCheckpoint none p

/-! ### Requests that wait (R143) -/

/-- The slot read of STARTING begins once no write is in flight (R147). -/
def startSlotRead (p : Part) : Part :=
  if p.store.read = .waiting ∧ p.store.write = none then p.onStore fun c => { c with read := .reading } else p

/-- Again-pending after a write's end or a CLEAR: one new write begins, or in IDLE and STARTING it is cleared and the
orders still waiting complete with BUSY (R143, R145). -/
def takeAgain (p : Part) : Part :=
  if p.store.again then
    if recordedState p.sweep.state = none then
      (p.store.waiters.foldl (fun q w => finishOrder w.entry .busy none none q) p).onStore fun c =>
        { c with again := false, waiters := [] }
    else if p.isLatched .checkpointFault then p
    else beginStoreWrite p
  else p

/-- The orders a write satisfies complete with its result (R144, R145). -/
def satisfyOrders (w : StoreWrite) (fault : Bool) (p : Part) : Part :=
  ((p.store.waiters.filter (fun x => !x.late)).foldl (fun q x =>
      if fault then finishOrder x.entry .checkpointFailed none (detail w.generation) q
      else finishOrder x.entry .ok (detail w.resume) (detail w.generation) q) p).onStore fun c =>
    { c with waiters := c.waiters.filter (·.late) }

/-- The sweep's wait in FINISHING or ABANDONING has ended with its write, or with a write that cannot begin (R120, R121,
R145). -/
def endSweepWait (wrote : Bool) (p : Part) : Part :=
  let q := p.onStore fun c => { c with sweepWait := none }
  match q.sweep.state with
  | .finishing => enterDone q
  | .abandoning =>
    abandonCheck (q.onSweep fun s => { s with abandonWait := s.abandonWait.map fun a => { a with wrote := some wrote } })
  | _ => q

/-- The sweep's wait against a write's end. A wait taken while the write was in flight stays (R143), and after a fault its
own write cannot begin: FINISHING then goes on to DONE (R121), ABANDONING to IDLE once its window is empty, and until then
the wait stands for a write that a CLEAR begins (R120, R145). -/
def settleSweepWait (fault : Bool) (p : Part) : Part :=
  match p.store.sweepWait with
  | some false => endSweepWait (!fault) p
  | some true => if fault then (if p.sweep.state = .finishing then endSweepWait false p else abandonCheck p) else p
  | none => p

/-- A write has ended: its waiters are satisfied, and then again-pending is taken (R143, R145). -/
def storeWriteEnds (w : StoreWrite) (fault : Bool) (p : Part) : Part :=
  let ended := p.onStore fun c => { c with write := none }
  let marked := if fault then raiseCause .checkpointFault (latch .checkpointFault ended)
    else ended.onStore fun c => { c with last := some (w.generation, w.resume, w.code) }
  startSlotRead (takeAgain (settleSweepWait fault (satisfyOrders w fault marked)))

/-- What a slot holds after a write's end (R142, R145). -/
def CheckpointStore.endWrite (c : CheckpointStore) (w : StoreWrite) : StoreEnd → CheckpointStore
  | .good => c.takeTo w.writes.length
  | .bodyFault left => { c with slots := c.slots.set w.slot left }
  | .tailFault tail =>
    let d := c.takeTo bodyWrites
    { d with slots := modAt (fun b => applyWrites b (bytesAt 252 tail)) d.slots w.slot }

/-- A write's end was a fault. -/
def storeFaulted : StoreEnd → Bool
  | .good => false
  | _ => true

end Sys2Proof.Machine
end

