-- ==== Sys2Proof/Machine/Registers.lean ====
section
/-! DEFINITION. The register window's commands (12.1, 12.2, 12.6, 12.7): BIND, UNBIND, CLEAR, the resets, and what a write of
CONTROL names. -/

namespace Sys2Proof.Machine

/-! ### CLEAR (R197) -/

/-- The conditions, in bit order (R206). -/
def allConditions : List Condition :=
  [.chainFault, .logFault, .bufferParity, .retryOverflow, .spareFault, .checkpointFault]

/-- The halt cause a condition goes with (R117, R119). -/
def Condition.haltCause : Condition → Option HaltCause
  | .bufferParity => some .bufferParity
  | .retryOverflow => some .retryOverflow
  | .spareFault => some .spareFault
  | _ => none

/-- A latched condition is cleared. -/
def unlatch (c : Condition) (p : Part) : Part := p.onAlerts fun a => { a with latched := clearBit a.latched c.bit }

/-- The cause of a cleared condition leaves the halt set (R119). -/
def dropHaltCause (c : Condition) (p : Part) : Part :=
  match c.haltCause with
  | some h => p.onSweep fun s => { s with haltSet := clearBit s.haltSet h.bit }
  | none => p

/-- A cleared CHAIN_FAULT, while the engine is BOUND, reads the chain resume address (R189). -/
def resumeChain (p : Part) : Part :=
  if p.engine.state = .bound then p.onIntake fun i => { i with resumeRead := .live } else p

/-- A sweep in HALTED whose halt set a CLEAR has emptied leaves HALTED (R119). -/
def leaveIfClear (p : Part) : Part :=
  if p.sweep.state = .halted ∧ p.sweep.haltSet = 0 then leaveHalted p else p

/-- The CLEAR effects of the cleared conditions, in a fixed order (R119, R137, R145, R189, R197; log 20): the chain, the
halt set and the sweep, the checkpoint, and what these let begin. -/
def clearEffects (cleared : List Condition) (p : Part) : Part :=
  let chain := if cleared.contains .chainFault then resumeChain p else p
  let dropped := cleared.foldl (fun q c => dropHaltCause c q) chain
  let left := if cleared.any (fun c => c.haltCause.isSome) then leaveIfClear dropped else dropped
  let stored := if cleared.contains .checkpointFault then takeAgain left else left
  settleWork stored

/-- CLEAR with a set of conditions: the latched ones are cleared and have their effects; an empty set, or a named
condition that is not latched, sets REFUSED (R197). -/
def clearConditions (named : List Condition) (p : Part) : Part :=
  let cleared := named.filter p.isLatched
  let done := if cleared = [] then p else clearEffects cleared (cleared.foldl (fun q c => unlatch c q) p)
  if named = [] ∨ named.any (fun c => !p.isLatched c) then setRefused done else done

/-! ### BIND and UNBIND (R184, R185) -/

/-- BIND in UNBOUND: a misaligned ANCHOR fails the bind without a read (R184). In any other state it is refused. -/
def bindEngine (p : Part) : Part :=
  if p.engine.state = .unbound then
    if aligned 256 p.regs.anchor then p.onEngine fun e => { e with state := .binding }
    else p.onRegs fun r => { r with bindFailed := true }
  else setRefused p

/-- The anchor is taken by each block (R131, R136, R183, R184). -/
def takeAnchor (a : Anchor) (p : Part) : Part :=
  (((((p.onFindings fun f =>
      { f with area := some (a.logAddress, a.logCapacity), writeIndex := 0, sequence := 1, lastSequence := 0,
               episode := false }).onRegs fun r => { r with logTaken := 0 }).onRetry fun r =>
      if r.extensionInUse || r.refilling then r else r.install a.retryAddress a.retryCapacity).onAlerts fun u =>
      { u with levels := a.levels }).onIntake fun i =>
      { i with depth := some a.depth, statusPage := some a.statusPage, latch := false, holding := [], barrier := none,
               leftover := 0 }).onEngine fun e =>
      { e with state := .bound }

/-- The intake begins to follow the chain from the first order record, or is FAULTED (R184, R189). -/
def followFirst (a : Anchor) (p : Part) : Part :=
  if p.isLatched .chainFault then
    p.onIntake fun i => { i with state := .faulted, fetchPosition := none, parked := none }
  else if chainAddressOk a.firstRecord then p.onIntake fun i => i.follow a.firstRecord
  else chainFault p.regs.anchor (p.onIntake fun i => { i with state := .following, parked := none })

/-- Every status-page word is to be written (R194). -/
def writeAllWords (p : Part) : Part := p.onStatus fun ws => ws.map fun w => { w with writing := none, waiting := true }

/-- The anchor read has ended (R184). -/
def endBind (bytes : Option (List Byte)) (p : Part) : Part :=
  match bytes with
  | some b =>
    if anchorOk (anchorOf b) then settleWork (writeAllWords (followFirst (anchorOf b) (takeAnchor (anchorOf b) p)))
    else (p.onEngine fun e => { e with state := .unbound }).onRegs fun r => { r with bindFailed := true }
  | none => (p.onEngine fun e => { e with state := .unbound }).onRegs fun r => { r with bindFailed := true }

/-- UNBIND in BOUND: the intake stops, and a sweep in its pass goes to PAUSING (R116, R185). In any other state it is
refused. -/
def unbindEngine (p : Part) : Part :=
  if p.engine.state = .bound then
    let q := (p.onEngine fun e => { e with state := .unbinding }).onIntake Intake.stop
    if q.sweep.inPass then enterPausing q else q
  else setRefused p

/-- No host DMA is in flight: the last stretch of UNBINDING is over (R185). An order's DMA ends with its order, and the
table is empty by then. -/
def Part.dmaQuiet (p : Part) : Bool :=
  p.intake.fetch = .none && p.intake.reread = .none && p.intake.resumeRead = .none && p.findings.writer = .idle &&
    p.retry.busy = .idle && p.status.all (fun w => w.writing.isNone) && p.entriesInUse = []

/-- The engine enters UNBOUND, the sweep being at rest (R116, R185). -/
def endUnbind (p : Part) : Part :=
  if p.engine.state = .unbinding ∧ p.engine.drained ∧ p.sweep.atRest ∧ p.dmaQuiet then
    p.onEngine fun _ => { state := .unbound, drained := false }
  else p

/-! ### Resets (R186) -/

/-- What outlasts a reset: the checkpoint slots, a write in flight leaving its slot torn at the byte writes that had taken
(R146, R148), and the frames' bytes (R60). -/
def Part.afterReset (p : Part) (taken : Nat) : Part :=
  let torn := p.store.takeTo taken
  { Part.initial with
    regs := { Registers.initial with readData := p.regs.readData },
    buffer := { frames := p.buffer.frames.map fun f =>
                  { Frame.initial with block := f.block, trailer := f.trailer, upset := f.upset },
                queue := [] },
    alerts := { AlertUnit.initial with pulses := p.alerts.pulses },
    store := { CheckpointStore.initial with slots := torn.slots },
    freeCount := p.freeCount }

/-- ENGINE RESET keeps ANCHOR (R186). -/
def Part.engineReset (p : Part) (taken : Nat) : Part :=
  (p.afterReset taken).onRegs fun r => { r with anchor := p.regs.anchor }

/-! ### Register writes (R195, R196, R209) -/

/-- An 8-byte write of ANCHOR (R195). -/
def writeAnchor (value : Word) (p : Part) : Part :=
  if p.engine.state = .unbound then p.onRegs fun r => { r with anchor := value } else setRefused p

/-- An 8-byte write of NUDGE (R188). -/
def nudgeIntake (p : Part) : Part :=
  p.onIntake fun i => if i.state = .stopped then i else ({ i with latch := true } : Intake).rereadIfAsked

/-- An 8-byte write of LOG_TAKEN (R136, R195): held while the engine is not BOUND or UNBINDING, otherwise taken mod N
against the waiting writer. -/
def writeLogTaken (value : Word) (p : Part) : Part :=
  if p.engine.state = .bound ∨ p.engine.state = .unbinding then
    let n := (p.findings.area.map (·.2)).getD 1
    let q := p.onRegs fun r => { r with logTaken := BitVec.ofNat 64 (value.toNat % n) }
    startLog (if q.logFull then q else q.onFindings fun f => { f with episode := false })
  else p.onRegs fun r => { r with logTaken := value }

/-- An 8-byte write of ALERT: the mask level and the mode (R199, R209). The bits without a field are ignored (DESIGN
CHOICE, log 62). -/
def writeAlert (value : Word) (p : Part) : Part :=
  p.onAlerts fun a => { a with mask := min 3 (bitField value 24 4), pulseMode := bitField value 28 1 = 1 }

/-- The conditions a CONTROL write names (R209). -/
def namedConditions (value : Word) : List Condition := allConditions.filter fun c => bitField value (8 + c.bit) 1 = 1

/-- An 8-byte write of CONTROL (R182, R196, R209). `taken` is for an ENGINE RESET. Bits 14 and above are ignored (DESIGN
CHOICE, log 62). -/
def writeControl (value : Word) (taken : Nat) (p : Part) : Part :=
  match bitField value 0 8 with
  | 1 => bindEngine p
  | 2 => unbindEngine p
  | 3 => clearConditions (namedConditions value) p
  | 4 => p.engineReset taken
  | _ => setRefused p

/-- The register at an offset of the window (R209). -/
def registerAt (offset : Nat) : Option RegName :=
  match offset with
  | 0x00 => some .anchor
  | 0x08 => some .nudge
  | 0x10 => some .logTaken
  | 0x18 => some .alert
  | 0x20 => some .control
  | _ => none

/-- A write of the register window: a whole word has its register's effect, a narrower one is ignored and sets REFUSED
(R195). -/
def writeRegister (offset width : Nat) (value : Word) (p : Part) : Part :=
  if width ≠ 8 then setRefused p
  else
    match registerAt offset with
    | some .anchor => writeAnchor value p
    | some .nudge => nudgeIntake p
    | some .logTaken => writeLogTaken value p
    | some .alert => writeAlert value p
    | some .control => writeControl value (Config.tornWrites p.freeCount) p.spend
    | none => setRefused p

end Sys2Proof.Machine
end

