-- ==== Sys2Proof/Machine/Orders.lean ====
section
/-! DEFINITION. What an owner does with an order it takes (R97, R114, R115, R120, R131, R144, R159, R164, R14, R3), the
installation of a profile (R5, R80) and the end of a profile load (R4, R6). -/

namespace Sys2Proof.Machine

/-- An order taken during a load is held in its entry (R4). -/
def holdOrder (e : Nat) (p : Part) : Part :=
  (p.setWork e .held).onGeometry fun g => { g with held := g.held ++ [e] }

/-! ### Extent orders (R164) -/

/-- The order is malformed (R164 check 2). -/
def OrderRecord.malformed (r : OrderRecord) : Bool :=
  r.blockCount = 0 || 2048 < r.blockCount || r.scatterCount = 0 || 64 < r.scatterCount ||
    r.scatter.any (fun x => !aligned 8 x.address || x.length = 0 || x.length % 8 ≠ 0) ||
    (r.scatter.map (·.length)).sum ≠ r.blockCount * 4096

/-- An extent order past its checks, before its first stripe (R165). -/
def Extent.start : Extent :=
  { stripe := none, lock := .none, rebuilt := none, unbuilt := none, rowsLeft := [], band := none, rowsDone := 0,
    lost := 0, firstLost := none, reconstructed := 0, stop := none }

/-- The checks of an extent order, or its first stripe (R164, R166). -/
def beginExtent (e : Nat) (r : OrderRecord) (p : Part) : Part :=
  match p.geometry.profile with
  | none => finishOrder e .noProfile (detail 0) (detail 0) p
  | some g =>
    if r.malformed then finishOrder e .invalid (detail 0) (detail 0) p
    else if g.arrayBlocks < r.firstBlock + r.blockCount then finishOrder e .outOfRange (detail 0) (detail 0) p
    else if r.isWrite && p.condition = .failed then finishOrder e .arrayFailed (detail 0) (detail 0) p
    else askStripe e (g.stripeOf r.firstBlock) (p.setWork e (.extent .start))

/-! ### MEMBER STATE (R14) -/

/-- A MEMBER STATE order. -/
def beginMemberState (e : Nat) (r : OrderRecord) (p : Part) : Part :=
  match p.geometry.profile with
  | none => finishOrder e .noProfile none none p
  | some g =>
    if g.m ≤ r.p0.toNat ∨ (r.p1 ≠ 1 ∧ r.p1 ≠ 2) then finishOrder e .invalid none (detail 0) p
    else
      let slot := r.p0.toNat
      let q := if r.p1 = 1 then makeAbsent slot p else clearCounters slot p
      settleWork (advanceBands []
        (finishOrder e .ok (detail (q.member slot).state.code) (detail q.conditionCode) q))

/-! ### START SWEEP (R97) -/

/-- A START SWEEP order. -/
def beginStart (e : Nat) (r : OrderRecord) (p : Part) : Part :=
  match p.geometry.profile with
  | none => finishOrder e .noProfile none none p
  | some g =>
    if r.p0 ≠ 0 ∧ r.p0 ≠ 1 ∧ r.p0 ≠ 2 then finishOrder e .invalid none (detail 0) p
    else if p.sweep.state ≠ .idle ∨ p.targetSlot = none ∨ p.condition = .failed then finishOrder e .busy none none p
    else if r.p0 = 1 ∧ g.stripes ≤ r.p1.toNat then finishOrder e .outOfRange none none p
    else if r.p0 = 2 then
      startSlotRead (((p.setWork e .waiting).onSweep fun s => { s with state := .starting, startWait := some e }).onStore
        fun c => { c with read := .waiting })
    else beginSweep e (if r.p0 = 1 then r.p1.toNat else 0) 0 p

/-! ### A profile is loaded (R3 to R6, R80) -/

/-- A READ EXTENT or WRITE EXTENT is active in the Order Table (R3). -/
def Part.extentActive (p : Part) : Bool :=
  p.table.entries.any fun x =>
    match x with
    | some y =>
      isExtentKind y.record.kind &&
        (match y.work with
         | .handed => false
         | .completing _ _ _ _ => false
         | _ => true)
    | none => false

/-- A LOAD PROFILE order (R3). -/
def beginLoad (e : Nat) (r : OrderRecord) (p : Part) : Part :=
  if p.loading || p.extentActive || !(p.sweep.state = .idle || p.sweep.state = .done || p.sweep.state = .halted) then
    finishOrder e .busy (detail 0) (detail 0) p
  else if !aligned 8 r.p0 then finishOrder e .invalid none (detail 0) p
  else
    (p.setWork e .waiting).onGeometry fun g =>
      { g with load := some { entry := e, fetching := true, unsettled := [], absentSlots := 0 } }

/-- A held order begins its checks (R4). -/
def beginHeld (p : Part) (e : Nat) : Part :=
  match p.entry? e with
  | some x =>
    if isExtentKind x.record.kind then beginExtent e x.record p
    else if x.record.kind = kindMemberState then beginMemberState e x.record p
    else if x.record.kind = kindStartSweep then beginStart e x.record p
    else p
  | none => p

/-- A load ends: a sweep it kept in HALTED after a CLEAR leaves HALTED (log 52), and the orders it held begin their checks
in the order of their dispatch (R4). -/
def endLoad (p : Part) : Part :=
  p.geometry.held.foldl beginHeld (leaveIfClear (p.onGeometry fun g => { g with load := none, held := [] }))

/-- The Member Table of a profile (R5). -/
def memberTable (g : Profile) : List Member :=
  (List.range 24).map fun slot =>
    if slot < g.m then
      { lane := g.lanes.getD slot 0, state := g.states.getD slot .online, medium := 0, timeouts := 0, trailers := 0,
        consecutive := 0 }
    else Member.unmappedRecord

/-- A tag that is not FREE is quarantined by the load (R80). -/
def Tag.quarantine : Tag → Tag
  | .free => .free
  | _ => .quarantined

/-- A lane at installation: bound to a slot and flushing, or CLOSED with its FLUSH sent, or UNMAPPED (R6, R80). -/
def Lane.install (l : Lane) (state : Option MemberState) : Lane :=
  match state with
  | none => Lane.initial
  | some s =>
    { state := if s = .absent then .closed else .flushingLoad, tags := l.tags.map Tag.quarantine, sweepQueue := [],
      orderQueue := [], flushes := l.flushes + 1, lastWinner := .sweep }

/-- The initial state of the slot a profile maps to a lane, if any. -/
def Profile.laneState (g : Profile) (lane : Nat) : Option MemberState :=
  (lowestIndex (fun l => l = lane) g.lanes).map fun slot => g.states.getD slot .online

/-- Lanes at installation, from lane `i` on. -/
def installLanes (g : Profile) : Nat → List Lane → List Lane
  | _, [] => []
  | i, l :: ls => l.install (g.laneState i) :: installLanes g (i + 1) ls

/-- A profile is installed (R5). A HALTED or DONE sweep goes to IDLE; no CLEAR takes a halted sweep back to its pass while
the block is fetched (log 52), so no context holds or awaits a lock (R93) and no pacing window runs (R150). -/
def installProfile (g : Profile) (p : Part) : Part :=
  let rest := if p.sweep.state = .halted ∨ p.sweep.state = .done then enterIdle p else p
  partitionFrames g.sweepPool
    (((rest.onGeometry fun u =>
        { u with profile := some g, members := memberTable g, failed := false,
                 load := u.load.map fun l => { l with fetching := false, unsettled := g.lanes } }).onLanes fun ls =>
        installLanes g 0 ls).onPace fun c => c.installProfile g.pace)

/-- The profile fetch has ended (R3, R5, R6). -/
def endProfileFetch (bytes : Option (List Byte)) (l : Load) (p : Part) : Part :=
  match bytes with
  | none => endLoad (finishOrder l.entry .hostMemoryFault none none p)
  | some b =>
    match profileFail b with
    | some i => endLoad (finishOrder l.entry .invalid (detail 0) (detail i) p)
    | none => installProfile (profileOf b) p

/-- The slots of a set, counted. -/
def countBits (s : BitVec 24) : Nat := ((List.range 24).filter (fun i => s.getLsbD i)).length

/-- A mapped lane is settled; with the last one the load completes (R6). -/
def settleLoadLane (lane : Nat) (p : Part) : Part :=
  match p.geometry.load with
  | some l =>
    let left := l.unsettled.filter (· ≠ lane)
    let q := p.onGeometry fun g => { g with load := some { l with unsettled := left } }
    if left = [] then
      endLoad (finishOrder l.entry .ok (detail (countBits l.absentSlots)) (detail l.absentSlots.toNat) q)
    else q
  | none => p

/-- A load counts a lane not settled yet (R6). -/
def Part.loadAwaits (p : Part) (lane : Nat) : Bool :=
  p.geometry.load.any fun l => !l.fetching && l.unsettled.contains lane

/-! ### Sweep orders (R114, R115, R120) -/

/-- A PAUSE SWEEP order (R114). -/
def takePause (e : Nat) (p : Part) : Part :=
  if p.sweep.inPass then
    enterPausing ((p.setWork e .waiting).onSweep fun s => { s with pauseWait := s.pauseWait ++ [e] })
  else if p.sweep.state = .paused then
    finishOrder e .ok (detail p.sweep.watermark) (detail SweepState.paused.code) p
  else finishOrder e .busy none none p

/-- A RESUME SWEEP order (R115). -/
def takeResume (e : Nat) (p : Part) : Part :=
  if p.sweep.state = .paused then
    settleWork (passEnd (contextsReturn (enterPass (finishOrder e .ok (detail p.sweep.watermark) none p))))
  else if p.sweep.inPass then finishOrder e .ok (detail p.sweep.watermark) none p
  else finishOrder e .busy none none p

/-- The states in which ABANDON SWEEP is taken up (R120). -/
def SweepState.abandonable : SweepState → Bool
  | .sweeping => true
  | .retrying => true
  | .pausing => true
  | .paused => true
  | .halted => true
  | _ => false

/-- An ABANDON SWEEP order (R120). -/
def takeAbandon (e : Nat) (p : Part) : Part :=
  if p.sweep.state = .idle then finishOrder e .ok (detail p.sweep.watermark) none p
  else if p.sweep.state.abandonable then
    let entered := requestSweepCheckpoint
      (((p.setWork e .waiting).onSweep fun s =>
          { s with state := .abandoning,
                   abandonWait := some { entry := e, watermark := s.watermark, wrote := none } }).onPace Pace.stopWindow)
    settleWork (abandonCheck (entered.places.foldl abandonDiscards entered))
  else finishOrder e .busy none none p

/-! ### SET PACE, CHECKPOINT NOW, SET RETRY AREA, REPORT -/

/-- A SET PACE order (R159 to R161). -/
def takeSetPace (e : Nat) (r : OrderRecord) (p : Part) : Part :=
  if p.geometry.profile = none then finishOrder e .noProfile none none p
  else if p.loading then finishOrder e .busy none none p
  else
    let fields := setPaceFields r.p0 r.p1
    match paceFieldsFail fields with
    | some i => finishOrder e .invalid none (detail i) p
    | none =>
      let restart := setPaceRestart r.p2
      let waits := !restart && p.pace.timer.isSome
      let q := p.onPace fun c => if restart then c.restart (paceSet fields) else c.offer (paceSet fields)
      finishOrder e .ok (detail q.pace.budget) (detail (bitOf !waits)) q

/-- A CHECKPOINT NOW order (R144). -/
def takeCheckpointNow (e : Nat) (p : Part) : Part :=
  if p.geometry.profile = none then finishOrder e .noProfile none none p
  else if p.sweep.state = .idle ∨ p.sweep.state = .starting then finishOrder e .busy none none p
  else if p.isLatched .checkpointFault then
    finishOrder e .checkpointFailed (detail 0) (detail 0) (p.onStore fun c => { c with again := true })
  else requestOrderCheckpoint e (p.setWork e .waiting)

/-- A SET RETRY AREA order (R131). -/
def takeSetRetryArea (e : Nat) (r : OrderRecord) (p : Part) : Part :=
  let capacity := r.p1.toNat
  if 65535 < capacity ∨ (0 < capacity ∧ !aligned 16 r.p0) then finishOrder e .invalid none (detail 0) p
  else if p.retry.extensionInUse || p.retry.refilling then finishOrder e .busy none none p
  else finishOrder e .ok (detail capacity) none (p.onRetry fun x => x.install r.p0 capacity)

/-- A REPORT order: everything is taken in this step; the slots are read with `taken` byte writes of a write in flight
taken (R192). -/
def takeReport (e taken : Nat) (r : OrderRecord) (p : Part) : Part :=
  if !aligned 8 r.p0 ∨ r.p1.toNat < 2048 then finishOrder e .invalid none (detail 0) p
  else
    let read := p.onStore fun c => c.takeTo taken
    let bytes := read.reportBytes
    (read.setWriting e (.report bytes) fun x => [{ address := x.p0, bytes }]).spend

/-! ### Taking an order -/

/-- An owner takes the oldest order handed over, when it is this entry's and of a kind it owns (R190, log 2); otherwise
nothing changes (log 3). -/
def takeOrder (e : Nat) (owns : Nat → Bool) (f : OrderRecord → Part → Part) (p : Part) : Part :=
  match p.table.handed, p.entry? e with
  | h :: rest, some x =>
    if h = e ∧ owns x.record.kind then finish (f x.record (p.onTable fun t => { t with handed := rest })) else p
  | _, _ => p

end Sys2Proof.Machine
end

