-- ==== Sys2Proof/Machine/OrderCommands.lean ====
section
/-! DEFINITION. The meanings of the fourteen order commands: the owner of a dispatched order takes it. -/

namespace Sys2Proof.Machine

/-- A command changes the part and nothing else: every meaning answers with a next state. -/
def becomes (s : State) (p : Part) : Host.Outcome State Fault Refusal := .next { s with part := p }

/-- READ_EXTENT (R4, R164, R166). -/
def execReadExtent (e : Nat) (s : State) : Host.Outcome State Fault Refusal :=
  becomes s (takeOrder e (· = kindReadExtent)
    (fun r p => if p.loading then holdOrder e p else beginExtent e r p) s.part)

/-- WRITE_EXTENT (R4, R164, R166). -/
def execWriteExtent (e : Nat) (s : State) : Host.Outcome State Fault Refusal :=
  becomes s (takeOrder e (· = kindWriteExtent)
    (fun r p => if p.loading then holdOrder e p else beginExtent e r p) s.part)

/-- LOAD_PROFILE (R3). -/
def execLoadProfile (e : Nat) (s : State) : Host.Outcome State Fault Refusal :=
  becomes s (takeOrder e (· = kindLoadProfile) (beginLoad e) s.part)

/-- MEMBER_STATE (R4, R14). -/
def execMemberState (e : Nat) (s : State) : Host.Outcome State Fault Refusal :=
  becomes s (takeOrder e (· = kindMemberState)
    (fun r p => if p.loading then holdOrder e p else beginMemberState e r p) s.part)

/-- START_SWEEP (R4, R97 to R99). -/
def execStartSweep (e : Nat) (s : State) : Host.Outcome State Fault Refusal :=
  becomes s (takeOrder e (· = kindStartSweep)
    (fun r p => if p.loading then holdOrder e p else beginStart e r p) s.part)

/-- PAUSE_SWEEP (R114). -/
def execPauseSweep (e : Nat) (s : State) : Host.Outcome State Fault Refusal :=
  becomes s (takeOrder e (· = kindPauseSweep) (fun _ p => takePause e p) s.part)

/-- RESUME_SWEEP (R115). -/
def execResumeSweep (e : Nat) (s : State) : Host.Outcome State Fault Refusal :=
  becomes s (takeOrder e (· = kindResumeSweep) (fun _ p => takeResume e p) s.part)

/-- ABANDON_SWEEP (R120). -/
def execAbandonSweep (e : Nat) (s : State) : Host.Outcome State Fault Refusal :=
  becomes s (takeOrder e (· = kindAbandonSweep) (fun _ p => takeAbandon e p) s.part)

/-- SET_PACE (R159 to R161). -/
def execSetPace (e : Nat) (s : State) : Host.Outcome State Fault Refusal :=
  becomes s (takeOrder e (· = kindSetPace) (takeSetPace e) s.part)

/-- CHECKPOINT_NOW (R144). -/
def execCheckpointNow (e : Nat) (s : State) : Host.Outcome State Fault Refusal :=
  becomes s (takeOrder e (· = kindCheckpointNow) (fun _ p => takeCheckpointNow e p) s.part)

/-- SET_RETRY_AREA (R131). -/
def execSetRetryArea (e : Nat) (s : State) : Host.Outcome State Fault Refusal :=
  becomes s (takeOrder e (· = kindSetRetryArea) (takeSetRetryArea e) s.part)

/-- REPORT (R192). -/
def execReport (e taken : Nat) (s : State) : Host.Outcome State Fault Refusal :=
  becomes s (takeOrder e (· = kindReport) (takeReport e taken) s.part)

/-- BARRIER (R191): it waits in its entry until it is the only order left. -/
def execBarrier (e : Nat) (s : State) : Host.Outcome State Fault Refusal :=
  becomes s (takeOrder e (· = kindBarrier) (fun _ p => p.setWork e .waiting) s.part)

/-- UNKNOWN_ORDER_KIND (R190): INVALID, both details zero. -/
def execUnknownOrderKind (e : Nat) (s : State) : Host.Outcome State Fault Refusal :=
  becomes s (takeOrder e (fun k => !orderKinds.contains k)
    (fun _ p => finishOrder e .invalid (detail 0) (detail 0) p) s.part)

end Sys2Proof.Machine
end

