-- ==== Sys2Proof/Machine/BandCommands.lean ====
section
/-! DEFINITION. The meanings of the order band's commands (R54, R171, R172) and of the row job ends (R36, R43 to R47). -/

namespace Sys2Proof.Machine

/-- What every event of a band ends with; `upsets` are the frames struck within the step. -/
def afterBand (upsets : List Nat) (p : Part) : Part := finish (settleWork (advanceBands upsets p))

/-! ### Grant (R53, R54) -/

/-- The layout of an order band's row in its frames: a frame for the old contents of each slot, and for a WRITE one for
the new contents (R53). -/
def rowLayout (g : Profile) (write : Bool) (row : Nat) (frames : List Nat) : List FramePlace :=
  (g.slots.map fun s => { row, slot := s, part := .old, frame := frames.getD s 0 }) ++
    (if write then g.slots.map fun s => { row, slot := s, part := .new, frame := frames.getD (g.m + s) 0 } else [])

/-- The layout of a band, row after row. -/
def bandLayout (g : Profile) (write : Bool) : List Nat → List Nat → List FramePlace
  | [], _ => []
  | row :: rows, frames =>
    rowLayout g write row frames ++ bandLayout g write rows (frames.drop (framesPerRow g write))

/-- A granted band begins: a READ with its direct phase, a WRITE with its gathering (R169, R172). -/
def beginBand (e : Nat) (p : Part) : Part :=
  match p.bandView e with
  | some v =>
    if v.record.isWrite then
      setBandDma e (.gather (blockMoves v (v.band.rows.map fun w => (w.row, w.want)))) p
    else beginReadBand e v p
  | none => p

/-- The head of the order-pool queue is granted its whole need (R54). -/
def grantHead (p : Part) : Part :=
  match p.geometry.profile, p.buffer.queue with
  | some g, (e, need) :: rest =>
    if need ≤ p.freeFrames .order then
      match p.bandView e with
      | some v =>
        let frames := p.grantable .order need
        let granted := (grantFrames (.orderBand e) frames p).onBuffer fun b => { b with queue := rest }
        afterBand [] (beginBand e (granted.modBand e fun b =>
          { b with granted := true,
                   places := bandLayout g v.record.isWrite (v.band.rows.map (·.row)) frames }))
      | none => p
    else p
  | _, _ => p

/-- ORDER_BAND_GRANT (R54). -/
def execOrderBandGrant (s : State) : Host.Outcome State Fault Refusal := becomes s (grantHead s.part)

/-! ### Row jobs -/

/-- A row of an order band whose job ends by one of these methods, READ or WRITE as `write` says. -/
def jobRow (p : Part) (e row : Nat) (write : Bool) (methods : List Method) : Option (BandView × RowWork × RowJob) :=
  match p.bandView e with
  | some v =>
    match v.band.row? row with
    | some w =>
      match w.job with
      | some j =>
        if w.phase = .job ∧ v.record.isWrite = write ∧ (!write || methods.contains w.method) then some (v, w, j)
        else none
      | none => none
    | none => none
  | none => none

/-- Output blocks of an order's job are placed with fresh trailers (R46, R53). -/
def placeOutputs (v : BandView) (row : Nat) (part : FramePart) (blocks : List (Nat × Block)) (p : Part) : Part :=
  blocks.foldl (fun x (s, b) =>
    match frameAt v.band.places row s part with
    | some f => placeFrame f b (freshTrailer v.stripe s b) x
    | none => x) p

/-- The reconstruction job of a READ row ends (R36, R47, R170). -/
def endReadJob (e row : Nat) (upsets : List Nat) (p : Part) : Part :=
  match jobRow p e row false [] with
  | some (v, w, j) =>
    let struck := strikeFrames upsets p
    let inputs := framesOf v.band.places row .old (reconstructionInputs v.g v.stripe j.erased)
    let outputs := framesOf v.band.places row .old j.wanted
    let bad := struck.jobErrors inputs outputs upsets
    if bad ≠ [] then afterBand upsets (frameError (.orderBand e) row bad (spoilOutputs bad outputs struck))
    else
      let blocks :=
        match reconstructRow (struck.rowView v.g v.stripe v.band.places row j.erased) with
        | some r => j.wanted.map fun s => (s, r.ofRole (v.g.role v.stripe s))
        | none => []
      let placed := placeOutputs v row .old blocks struck
      let counted := placed.modExtent e fun x => { x with reconstructed := x.reconstructed + blocks.length }
      afterBand upsets (counted.modRow e row fun r => { r with phase := .ready, ready := w.want, job := none })
  | none => p

/-- RECONSTRUCTION_JOB_END (R36). -/
def execReconstructionJobEnd (o : Owner) (row : Nat) (upsets : List Nat) (s : State) :
    Host.Outcome State Fault Refusal :=
  becomes s
    (match o with
     | .sweepBand place =>
       if (s.part.sweepBand? place).any (fun b => b.jobs.any (fun j => j.row = row)) then
         afterBand upsets (endSweepJob place row upsets s.part)
       else s.part
     | .orderBand e => endReadJob e row upsets s.part)

/-- The new parity blocks of a row, by slot (R43, R44). -/
def parityBlocks (v : BandView) (slots : List Nat) (pBlock qBlock : Block) : List (Nat × Block) :=
  slots.map fun s => (s, if s = v.g.pSlot v.stripe then pBlock else qBlock)

/-- The terms of a delta job (R43). -/
def deltaTerms (v : BandView) (p : Part) (row : Nat) (want : List Nat) : List DeltaTerm :=
  want.filterMap fun s =>
    match v.g.role v.stripe s with
    | .data i =>
      some { index := i, old := p.blockAt v.band.places row s .old, new := p.blockAt v.band.places row s .new }
    | _ => none

/-- DELTA_JOB_END (R43, R174): INPUT_ERASED moves the row to FULL; a parity error strikes the row; otherwise the new
parity is placed and the row goes on to its writes. -/
def execDeltaJobEnd (e row : Nat) (upsets : List Nat) (s : State) : Host.Outcome State Fault Refusal :=
  becomes s
    (match jobRow s.part e row true [.delta] with
     | some (v, w, j) =>
       if j.erased ≠ [] then afterBand upsets (moveRows e v .full [w] s.part)
       else
         let p := strikeFrames upsets s.part
         let inputs := framesOf v.band.places row .old (w.want ++ j.parity) ++ framesOf v.band.places row .new w.want
         let outputs := framesOf v.band.places row .new j.parity
         let bad := p.jobErrors inputs outputs upsets
         if bad ≠ [] then afterBand upsets (frameError (.orderBand e) row bad (spoilOutputs bad outputs p))
         else
           let terms := deltaTerms v p row w.want
           let newP := deltaP (p.blockAt v.band.places row (v.g.pSlot v.stripe) .old) terms
           let newQ := deltaQ (p.blockAt v.band.places row (v.g.qSlot v.stripe) .old) terms
           afterBand upsets (writeRow e row (placeOutputs v row .new (parityBlocks v j.parity newP newQ) p))
     | none => s.part)

/-- The data blocks of a row as they will stand after the write: the written from their new frames, the others from
`unwrittenBlock` (R44). -/
def newData (v : BandView) (p : Part) (row : Nat) (want : List Nat) (unwrittenBlock : Nat → Block) : List Block :=
  (v.g.dataSlots v.stripe).map fun s =>
    if want.contains s then p.blockAt v.band.places row s .new else unwrittenBlock s

/-- The new parity of a full-row job is placed (R44). -/
def placeFullParity (v : BandView) (row : Nat) (parity : List Nat) (data : List Block) (p : Part) : Part :=
  placeOutputs v row .new (parityBlocks v parity (parityP data) (parityQ data)) p

/-- FULL_ROW_JOB_END (R44, R175). -/
def execFullRowJobEnd (e row : Nat) (upsets : List Nat) (s : State) : Host.Outcome State Fault Refusal :=
  becomes s
    (match jobRow s.part e row true [.full, .fullNoReads] with
     | some (v, w, j) =>
       let p := strikeFrames upsets s.part
       let inputs := framesOf v.band.places row .new w.want ++ framesOf v.band.places row .old (unwritten v w)
       let outputs := framesOf v.band.places row .new j.parity
       let bad := p.jobErrors inputs outputs upsets
       if bad ≠ [] then afterBand upsets (frameError (.orderBand e) row bad (spoilOutputs bad outputs p))
       else
         let data := newData v p row w.want fun t => p.blockAt v.band.places row t .old
         afterBand upsets (writeRow e row (placeFullParity v row j.parity data p))
     | none => s.part)

/-- The block with which an unwritten row counts: the first requested of the first such row, in processing order (R165,
R175; log 26). -/
def firstUnwritten (v : BandView) (row : Nat) (old : Option Nat) : Option Nat :=
  let mine := firstRequested v.g v.record.firstBlock v.record.blockCount v.stripe row
  match old with
  | none => some mine
  | some a => if v.g.stripeOf a = v.stripe ∧ row < v.g.rowOf a then some mine else some a

/-- A LOST row of a WRITE: nothing of it is written, and it is counted (R175). -/
def countUnwritten (e row : Nat) (v : BandView) (p : Part) : Part :=
  (p.modExtent e fun x => { x with lost := x.lost + 1, firstLost := firstUnwritten v row x.firstLost }).modRow e row
    fun r => { r with phase := .done true, job := none }

/-- FULL_ROW_RECONSTRUCTION_JOB_END (R45, R175). -/
def execFullRowReconstructionJobEnd (e row : Nat) (upsets : List Nat) (s : State) : Host.Outcome State Fault Refusal :=
  becomes s
    (match jobRow s.part e row true [.fullReconstruction] with
     | some (v, w, j) =>
       if 3 ≤ j.erased.length then afterBand upsets (countUnwritten e row v s.part)
       else
         let p := strikeFrames upsets s.part
         let inputs := framesOf v.band.places row .old (reconstructionInputs v.g v.stripe j.erased) ++
           framesOf v.band.places row .new w.want ++
           framesOf v.band.places row .old (without (unwritten v w) j.erased)
         let outputs := framesOf v.band.places row .new j.parity ++ framesOf v.band.places row .old j.wanted
         let bad := p.jobErrors inputs outputs upsets
         if bad ≠ [] then afterBand upsets (frameError (.orderBand e) row bad (spoilOutputs bad outputs p))
         else
           match reconstructRow (p.rowView v.g v.stripe v.band.places row j.erased) with
           | some r =>
             let data := newData v p row w.want fun t => r.ofRole (v.g.role v.stripe t)
             let back := placeOutputs v row .old (j.wanted.map fun t => (t, r.ofRole (v.g.role v.stripe t))) p
             afterBand upsets (writeRow e row (placeFullParity v row j.parity data back))
           | none => afterBand upsets (countUnwritten e row v p)
     | none => s.part)

/-! ### Host DMA of a band -/

/-- The frame a move reads or fills. -/
def moveFrame (v : BandView) (part : FramePart) (m : BlockMove) : Option Nat := frameAt v.band.places m.row m.slot part

/-- Gathered blocks fill the new-contents frames with their trailers (R46, R172). -/
def fillGathered (v : BandView) (moves : List BlockMove) (blocks : List Block) (p : Part) : Part :=
  (moves.zip blocks).foldl (fun x mb =>
    match moveFrame v .new mb.1 with
    | some f => loadFrame f mb.2 (freshTrailer v.stripe mb.1.slot mb.2) x
    | none => x) p

/-- The rows choose their methods; a row with nothing to read goes on to its job or its writes (R173, R176). -/
def startRow (e : Nat) (v : BandView) (p : Part) (w : RowWork) : Part :=
  let m := chooseMethod v p w
  let chosen := p.modRow e w.row fun r => { r with method := m, phase := .reading, asked := methodReads v p w m }
  match m with
  | .parityLess => writeRow e w.row chosen
  | .fullNoReads => handJob e w.row { erased := [], wanted := [], parity := presentParity v p } chosen
  | _ => chosen

/-- Gathering is done: methods are chosen and the rows' reads handed over together (R173, R174). -/
def startRows (e : Nat) (v : BandView) (p : Part) : Part :=
  let pairs := v.band.rows.flatMap fun w => (methodReads v p w (chooseMethod v p w)).map fun s => (w.row, s)
  handRequests (orderReads v.g p e v.stripe v.band.places pairs) (v.band.rows.foldl (startRow e v) p)

/-- Every row of the band is done with, not completed (R179). -/
def dropRows (e : Nat) (p : Part) : Part :=
  p.modBand e fun b => { b with rows := b.rows.map fun w => { w with phase := .done false } }

/-- GATHER_END (R172, R179). One that ends with a fault has filled no frame (DESIGN CHOICE, log 64). -/
def execGatherEnd (e : Nat) (result : GatherEnd) (upsets : List Nat) (s : State) : Host.Outcome State Fault Refusal :=
  becomes s
    (match s.part.bandView e with
     | some v =>
       match v.band.dma, result with
       | .gather _, .fault => afterBand upsets (dropRows e (stopOrder e .hostMemoryFault (setBandDma e .idle s.part)))
       | .gather moves, .read blocks =>
         if blocks.length = moves.length then
           let filled := strikeFrames upsets (fillGathered v moves blocks (setBandDma e .idle s.part))
           afterBand upsets (startRows e v filled)
         else s.part
       | _, _ => s.part
     | none => s.part)

/-- A move finds a parity error in its frame (R56). -/
def moveFails (v : BandView) (p : Part) (m : BlockMove) : Bool := (moveFrame v .old m).any p.parityError

/-- The moves of a delivery in their order, as (delivered, found with a parity error): after an error in a frame of a row
the row's blocks not yet delivered are neither read nor delivered (R59). `struck` holds the rows with an error so far. -/
def readMoves (v : BandView) (p : Part) : List Nat → List BlockMove → List BlockMove × List BlockMove
  | _, [] => ([], [])
  | struck, m :: ms =>
    if struck.contains m.row then readMoves v p struck ms
    else if moveFails v p m then
      let (given, bad) := readMoves v p (m.row :: struck) ms
      (given, m :: bad)
    else
      let (given, bad) := readMoves v p struck ms
      (m :: given, bad)

/-- How many of a delivery's moves its DMA had come to before it ended. -/
def deliveredCount (moves : List BlockMove) : DeliveryEnd → Nat
  | .good => moves.length
  | .fault n => min n moves.length

/-- A READY row after the delivery: completed when each of its blocks was delivered (R59, R171, R179). -/
def closeRow (given : List BlockMove) (w : RowWork) : RowWork :=
  if w.phase = .ready then
    { w with phase := .done (w.ready.all fun s => given.any (fun m => m.row = w.row && m.slot = s)) }
  else w

/-- A delivery has ended: its blocks up to a row's first error were delivered, the rows are closed, and an error or a fault
stops the order (R59, R171, R179). -/
def endDelivery (e : Nat) (v : BandView) (moves : List BlockMove) (result : DeliveryEnd) (p : Part) : Part :=
  let (given, bad) := readMoves v p [] (moves.take (deliveredCount moves result))
  let marked := if bad = [] then p
    else stopOrder e .bufferFault (markUnfit (bad.filterMap (moveFrame v .old)) p)
  let stopped :=
    match result with
    | .good => marked
    | .fault _ => stopOrder e .hostMemoryFault marked
  (setBandDma e .idle stopped).modBand e fun b => { b with rows := b.rows.map (closeRow given) }

/-- DELIVERY_END (R171). -/
def execDeliveryEnd (e : Nat) (result : DeliveryEnd) (upsets : List Nat) (s : State) :
    Host.Outcome State Fault Refusal :=
  becomes s
    (match s.part.bandView e with
     | some v =>
       match v.band.dma with
       | .delivery moves => afterBand upsets (endDelivery e v moves result (strikeFrames upsets s.part))
       | _ => s.part
     | none => s.part)

end Sys2Proof.Machine
end

