-- ==== Sys2Proof/Machine/DmaCommands.lean ====
section
/-! DEFINITION. The meanings of the ends of host DMA and of the nonvolatile store's work: the chain (R187 to R189), the
anchor (R184), records and status words (R192 to R194), the profile (R5), the retry extension (R126, R129), the log
(R135) and the checkpoint slots (R143, R147). -/

namespace Sys2Proof.Machine

/-! ### The chain -/

/-- ANCHOR_READ (R184). -/
def execAnchorRead (bytes : Option (List Byte)) (s : State) : Host.Outcome State Fault Refusal :=
  becomes s (if s.part.engine.state = .binding then finish (endBind bytes s.part) else s.part)

/-- UNBIND_DRAIN_END (R185). -/
def execUnbindDrainEnd (s : State) : Host.Outcome State Fault Refusal := becomes s (finish (endUnbind s.part))

/-- A fetched record joins the holding list, and its link decides what follows (R187, R189). -/
def takeRecord (r : OrderRecord) (link : Word) (p : Part) : Part :=
  let q := p.onIntake fun i => { i with fetch := .none, holding := i.holding ++ [r] }
  if link = 0 then q.onIntake fun i => i.park r.address
  else if aligned 64 link then q.onIntake fun i => i.follow link
  else chainFault link q

/-- A record fetch has ended (R187, R189). -/
def endFetch (result : FetchEnd) (p : Part) : Part :=
  match p.intake.fetch, result with
  | .live, .fault => (chainFault p.intake.fetchAddress p).onIntake fun i => { i with fetch := .none }
  | .live, .read header scatter =>
    takeRecord (orderRecord p.intake.fetchAddress header scatter) (recordLink header) p
  | _, _ => p.onIntake fun i => { i with fetch := .none }

/-- RECORD_FETCH (R187). -/
def execRecordFetch (result : FetchEnd) (s : State) : Host.Outcome State Fault Refusal :=
  becomes s (finish (endFetch result s.part))

/-- A link reread has ended (R188, R189). -/
def endReread (bytes : Option (List Byte)) (p : Part) : Part :=
  let q := p.onIntake fun i => { i with reread := .none }
  match p.intake.reread, bytes with
  | .live, none => chainFault (p.intake.parked.getD 0) q
  | .live, some b =>
    let link := wordField b 0
    if link = 0 then q.onIntake Intake.rereadIfAsked
    else if aligned 64 link then q.onIntake fun i => i.follow link
    else chainFault link q
  | .stale, _ => q.onIntake Intake.rereadIfAsked
  | .none, _ => p

/-- LINK_REREAD (R188). -/
def execLinkReread (bytes : Option (List Byte)) (s : State) : Host.Outcome State Fault Refusal :=
  becomes s (finish (endReread bytes s.part))

/-- The address of the chain resume field (R205). -/
def Part.resumeField (p : Part) : Word := p.regs.anchor + 8

/-- The read of the chain resume address has ended (R189). -/
def endResume (bytes : Option (List Byte)) (p : Part) : Part :=
  let q := p.onIntake fun i => { i with resumeRead := .none }
  match p.intake.resumeRead, bytes with
  | .live, none => chainFault p.resumeField q
  | .live, some b =>
    if chainAddressOk (wordField b 0) then q.onIntake fun i => i.follow (wordField b 0)
    else chainFault p.resumeField q
  | _, _ => q

/-- CHAIN_RESUME_READ (R189). -/
def execChainResumeRead (bytes : Option (List Byte)) (s : State) : Host.Outcome State Fault Refusal :=
  becomes s (finish (endResume bytes s.part))

/-! ### Records and the status page -/

/-- A fault on a detail or completion word write latches CHAIN_FAULT (R189, R193; log 7). -/
def wordFault (p : Part) : Part := (chainFault (Config.wordFaultAddress p.freeCount) p).spend

/-- The detail words of an order have been written; its completion word follows, after a fault too (R193). -/
def endDetail (e : Nat) (fault : Bool) (p : Part) : Part :=
  match p.workOf e with
  | some (.completing status a b false) =>
    let q := p.setWriting e (.completing status a b true) fun r => [r.completionWrite status]
    if fault then wordFault q else q
  | _ => p

/-- DETAIL_WRITE_END (R193). -/
def execDetailWriteEnd (e : Nat) (fault : Bool) (s : State) : Host.Outcome State Fault Refusal :=
  becomes s (finish (endDetail e fault s.part))

/-- The entry is freed, with the BARRIER hold when it is its own (R191, R193). -/
def freeEntry (e : Nat) (p : Part) : Part :=
  (p.onTable fun t => { t with entries := t.entries.set e none }).onIntake fun i =>
    { i with barrier := if i.barrier = some e then none else i.barrier }

/-- A completion word has been written (R193). -/
def endCompletion (e : Nat) (fault : Bool) (p : Part) : Part :=
  match p.entry? e with
  | some x =>
    match x.work with
    | .completing _ _ _ true =>
      let q := freeEntry e p
      if fault then wordFault q else if x.record.notify then raiseCause .orderNotify q else q
    | _ => p
  | none => p

/-- COMPLETION_WORD_WRITE_END (R193). -/
def execCompletionWordWriteEnd (e : Nat) (fault : Bool) (s : State) : Host.Outcome State Fault Refusal :=
  becomes s (finish (endCompletion e fault s.part))

/-- A report has been written (R192). -/
def endReport (e : Nat) (fault : Bool) (p : Part) : Part :=
  match p.workOf e with
  | some (.report _) =>
    if fault then finishOrder e .hostMemoryFault (detail 0) (detail 0) p
    else finishOrder e .ok (detail 2048) (detail 0) p
  | _ => p

/-- REPORT_WRITE_END (R192). -/
def execReportWriteEnd (e : Nat) (fault : Bool) (s : State) : Host.Outcome State Fault Refusal :=
  becomes s (finish (endReport e fault s.part))

/-- A status-page write has ended: one waiting rewrite carries the latest value (R194). -/
def StatusWord.written (w : StatusWord) (now : Word) (write : HostWrite) : StatusWord :=
  match w.writing with
  | some _ => if w.waiting then { value := now, writing := some write, waiting := false } else { w with writing := none }
  | none => w

/-- STATUS_WORD_WRITE_END (R194): a fault is not repeated and latches nothing. -/
def execStatusWordWriteEnd (word : Nat) (_fault : Bool) (s : State) : Host.Outcome State Fault Refusal :=
  becomes s
    (finish (s.part.onStatus fun ws =>
      modAt (fun w => w.written (s.part.statusValue word) (s.part.statusWrite word)) ws word))

/-- PROFILE_FETCH (R3, R5, R6). -/
def execProfileFetch (bytes : Option (List Byte)) (s : State) : Host.Outcome State Fault Refusal :=
  becomes s
    (match s.part.geometry.load with
     | some l => if l.fetching then finish (settleWork (endProfileFetch bytes l s.part)) else s.part
     | none => s.part)

/-! ### The retry extension -/

/-- A join write to the extension has ended (R126, R127, R132). -/
def endJoin (fault : Bool) (p : Part) : Part :=
  match p.retry.busy with
  | .join _ true => p.onRetry fun r => { r with busy := .idle, write := none }
  | .join j false =>
    if fault then refuseJoin j .areaFault (p.onRetry fun r => { r with busy := .idle, write := none })
    else
      let accepted := p.onRetry fun r => r.accept j
      settleRest j.place (if p.retry.spilled then accepted else raiseCause .retrySpill accepted)
  | _ => p

/-- EXTENSION_JOIN_WRITE_END (R126). -/
def execExtensionJoinWriteEnd (fault : Bool) (s : State) : Host.Outcome State Fault Refusal :=
  becomes s (finish (settleWork (endJoin fault s.part)))

/-- A refill read has ended (R129, R132). -/
def endRefill (bytes : Option (List Byte)) (p : Part) : Part :=
  match p.retry.busy with
  | .refill true => p.onRetry fun r => { r with busy := .idle }
  | .refill false =>
    match bytes.bind (refillEntry p.stripeCount) with
    | some e => p.onRetry fun r => r.refill e
    | none => retryOverflow .areaFault (p.onRetry fun r => { r with busy := .idle })
  | _ => p

/-- REFILL_READ_END (R129). -/
def execRefillReadEnd (bytes : Option (List Byte)) (s : State) : Host.Outcome State Fault Refusal :=
  becomes s (finish (settleWork (endRefill bytes s.part)))

/-! ### The findings log -/

/-- A log write ended with a host memory fault (R137). -/
def logFault (p : Part) : Part :=
  raiseCause .logFault (latch .logFault (p.onFindings fun f => { f with writer := .idle, write := none }))

/-- LOG_BODY_WRITE_END (R135). -/
def execLogBodyWriteEnd (fault : Bool) (s : State) : Host.Outcome State Fault Refusal :=
  becomes s
    (if s.part.findings.writer = .body then
      finish (if fault then logFault s.part else s.part.onFindings Findings.beginHeader)
    else s.part)

/-- LOG_HEADER_WRITE_END (R135). -/
def execLogHeaderWriteEnd (fault : Bool) (s : State) : Host.Outcome State Fault Refusal :=
  becomes s
    (if s.part.findings.writer = .header then
      finish (if fault then logFault s.part else settleWork (s.part.onFindings Findings.written))
    else s.part)

/-! ### The checkpoint slots -/

/-- CHECKPOINT_WRITE_END (R142, R143, R145). -/
def execCheckpointWriteEnd (result : StoreEnd) (s : State) : Host.Outcome State Fault Refusal :=
  becomes s
    (match s.part.store.write with
     | some w => finish (settleWork (storeWriteEnds w (storeFaulted result) (s.part.onStore fun c => c.endWrite w result)))
     | none => s.part)

/-- The slot read of STARTING has ended (R98, R147). -/
def endSlotRead (p : Part) : Part :=
  match p.sweep.startWait with
  | some e => slotReadEnds e (p.onStore fun c => { c with read := .none })
  | none => p.onStore fun c => { c with read := .none }

/-- CHECKPOINT_READ_END (R147). -/
def execCheckpointReadEnd (s : State) : Host.Outcome State Fault Refusal :=
  becomes s
    (if s.part.store.read = .reading ∧ s.part.sweep.state = .starting then finish (endSlotRead s.part) else s.part)

end Sys2Proof.Machine
end

