-- ==== Sys2Proof/Machine/LaneCommands.lean ====
section
/-! DEFINITION. The meanings of the lane commands: issue (R65, R66), answers (R68 to R71, R73), timers (R72, R76), flushes
(R6, R74, R75) and failed writes (R78, R79). -/

namespace Sys2Proof.Machine

/-- What every event on a lane ends with: reclaim, the bands that go on, and what these let begin; `upsets` are the frames
struck within the step. -/
def afterLane (lane : Nat) (upsets : List Nat) (p : Part) : Part :=
  finish (settleWork (advanceBands upsets (reclaimLane lane p)))

/-- A request completes as failed with an erasure kind: a WRITE that is not a mend makes its member ABSENT first; a mend
that was not answered MEDIUM counts a medium error (R69, R70, R72, R78, R79). -/
def failRequest (q : LaneRequest) (k : ErasureKind) (p : Part) : Part :=
  if q.write && !q.mend then completeErased q k (makeAbsent q.slot p)
  else if q.write && k ≠ .medium then completeErased q k (countMedium q.slot p)
  else completeErased q k p

/-- A request is retried, or with its retries used completes with the kind (R70, R72). -/
def retryOrFail (q : LaneRequest) (k : ErasureKind) (p : Part) : Part :=
  match p.geometry.profile with
  | some g => if q.retries < g.requestRetries then retryRequest q p else failRequest q k p
  | none => p

/-- The tag of a lane. -/
def Part.tag (p : Part) (lane t : Nat) : Tag := (p.lane lane).tags.getD t .free

/-- An answer reaches a tag of a lane that takes answers: ISSUED, `f` takes it with the tag FREE again; QUARANTINED, a
late answer frees the tag; otherwise it is discarded (R62, R67, R71, R73). -/
def answer (lane t : Nat) (upsets : List Nat) (f : LaneRequest → Part → Part) (p : Part) : Part :=
  if (p.lane lane).takesAnswers then
    match p.tag lane t with
    | .issued q _ => afterLane lane upsets (f q (setTag lane t .free p))
    | .quarantined => afterLane lane upsets (setTag lane t .free p)
    | .free => p
  else p

/-- A GOOD answer taken as its kind (R68). -/
def takeGood (q : LaneRequest) (sectors : List Sector) (upsets : List Nat) (p : Part) : Part :=
  let cleared := clearConsecutive q.slot p
  if q.write then completeWrite q true cleared else deliver q sectors upsets cleared

/-- A NOT_READY answer taken (R70). -/
def takeNotReady (q : LaneRequest) (upsets : List Nat) (p : Part) : Part :=
  retryOrFail q .notReady (strikeFrames upsets p)

/-- GOOD (R68): a READ with another number of sectors is taken as NOT_READY (R71). -/
def execGood (lane tag : Nat) (sectors : List Sector) (upsets : List Nat) (s : State) :
    Host.Outcome State Fault Refusal :=
  becomes s (answer lane tag upsets
    (fun q p =>
      if !q.write && sectors.length ≠ q.count then takeNotReady q upsets p else takeGood q sectors upsets p) s.part)

/-- The failing index as it is taken: an index of count or above is count − 1 (R69). -/
def failingIndex (q : LaneRequest) (index : Nat) : Nat := min index (q.count - 1)

/-- A MEDIUM answer taken as its kind: the sectors before the failing index, the block at it, and the follow-up (R69). -/
def takeMedium (q : LaneRequest) (j : Nat) (sectors : List Sector) (upsets : List Nat) (p : Part) : Part :=
  let counted := countMedium q.slot p
  if q.write then failRequest q .medium counted
  else
    let delivered := recordResult q.owner (q.row + j) q.slot (.erased .medium) (deliver q sectors upsets counted)
    if j + 1 < q.count then delivered.modLane q.lane fun l => l.joinHead (q.followUp j) else delivered

/-- MEDIUM (R69): a READ with a number of sectors other than its failing index is taken as NOT_READY (R71). -/
def execMedium (lane tag index : Nat) (sectors : List Sector) (upsets : List Nat) (s : State) :
    Host.Outcome State Fault Refusal :=
  becomes s (answer lane tag upsets
    (fun q p =>
      let j := failingIndex q index
      if !q.write && sectors.length ≠ j then takeNotReady q upsets p else takeMedium q j sectors upsets p) s.part)

/-- NOT_READY (R70). -/
def execNotReady (lane tag : Nat) (upsets : List Nat) (s : State) : Host.Outcome State Fault Refusal :=
  becomes s (answer lane tag upsets (fun q p => takeNotReady q upsets p) s.part)

/-- The consecutive timeouts have reached the absence threshold: the member is given up (R76). -/
def checkAbsence (slot : Nat) (g : Profile) (p : Part) : Part :=
  if g.absence ≤ (p.member slot).consecutive then makeAbsent slot p else p

/-- REQUEST_TIMER_EXPIRY (R72): the tag is quarantined, the timeout counted, the request retried or completed, and the
absence threshold tested last. -/
def execRequestTimerExpiry (lane tag : Nat) (upsets : List Nat) (s : State) : Host.Outcome State Fault Refusal :=
  becomes s
    (match s.part.tag lane tag, s.part.geometry.profile with
     | .issued q _, some g =>
       let struck := strikeFrames upsets (setTag lane tag .quarantined s.part)
       afterLane lane upsets (checkAbsence q.slot g (retryOrFail q .timeout (countTimeout q.slot g.absence struck)))
     | _, _ => s.part)

/-! ### Issue -/

/-- The lane has a free issue slot (R65). -/
def Lane.canIssue (l : Lane) (depth : Nat) : Bool :=
  l.state = .opened && l.flushes = 0 && l.outstanding < depth && l.tags.any (fun t => t = .free)

/-- The winner of a contested issue (R66). -/
def contestedWinner (mode : ArbiterMode) (last : LaneClass) (c : ArrayCondition) : LaneClass :=
  match mode with
  | .orderFirst => .order
  | .sweepFirst => .sweep
  | .alternate => if last = .sweep then .order else .sweep
  | .byUrgency => if c = .double then .sweep else .order

/-- The class that issues, if a request waits (R66). -/
def Lane.issuer (l : Lane) (mode : ArbiterMode) (c : ArrayCondition) : Option LaneClass :=
  match l.sweepQueue, l.orderQueue with
  | [], [] => none
  | _ :: _, [] => some .sweep
  | [], _ :: _ => some .order
  | _ :: _, _ :: _ => some (contestedWinner mode l.lastWinner c)

/-- The lane after a class's head has left its queue; a contested issue records its winner (R64, R66). -/
def Lane.take (l : Lane) (c : LaneClass) : Lane :=
  let contested := l.sweepQueue ≠ [] ∧ l.orderQueue ≠ []
  let last := if contested then c else l.lastWinner
  match c with
  | .sweep => { l with sweepQueue := l.sweepQueue.drop 1, lastWinner := last }
  | .order => { l with orderQueue := l.orderQueue.drop 1, lastWinner := last }

/-- The head of a class queue. -/
def Lane.head (l : Lane) (c : LaneClass) : Option LaneRequest :=
  match c with
  | .sweep => l.sweepQueue.head?
  | .order => l.orderQueue.head?

/-- A WRITE that met a parity error as it was issued is not sent (R57, R58, R59, R65): the sweep discards its band; an
order's row is not completed and the member is treated as one whose write failed. -/
def failIssue (q : LaneRequest) (bad : List Nat) (p : Part) : Part :=
  let struck := frameError q.owner q.row bad p
  match q.owner with
  | .sweepBand _ => struck
  | .orderBand _ => makeAbsent q.slot struck

/-- A request leaves its queue and goes onto the lane on the lowest FREE tag, or fails its parity check (R65). -/
def issueRequest (lane : Nat) (q : LaneRequest) (upsets : List Nat) (p : Part) : Part :=
  let struck := strikeFrames upsets p
  let bad := if q.write then q.frames.filter struck.parityError else []
  if bad ≠ [] then failIssue q bad struck
  else
    match lowestIndex (fun t => t = Tag.free) (struck.lane lane).tags with
    | some t => setTag lane t (.issued q (if q.write then q.frames.map struck.sectorOf else [])) struck
    | none => struck

/-- One issue on a lane, if it has a free issue slot and a request waits (R65, R66). -/
def issueOn (lane : Nat) (upsets : List Nat) (g : Profile) (p : Part) : Part :=
  let l := p.lane lane
  if l.canIssue g.depth then
    match l.issuer g.arbiter p.condition with
    | some c =>
      match l.head c with
      | some q => afterLane lane upsets (issueRequest lane q upsets (p.modLane lane fun x => x.take c))
      | none => p
    | none => p
  else p

/-- REQUEST_ISSUE (R65). -/
def execRequestIssue (lane : Nat) (upsets : List Nat) (s : State) : Host.Outcome State Fault Refusal :=
  becomes s
    (match s.part.geometry.profile with
     | some g => issueOn lane upsets g s.part
     | none => s.part)

/-! ### Flushes -/

/-- A FLUSHED taken: the flushes pending fall, and at 0 the quarantined tags are FREE and the lane leaves FLUSHING
(R75). -/
def Lane.flushed (l : Lane) : Lane :=
  if l.flushes = 1 then
    { l with flushes := 0, tags := l.tags.map fun t => if t = .quarantined then .free else t,
             state := if l.state = .flushingLoad ∨ l.state = .flushingReclaim then .opened else l.state }
  else { l with flushes := l.flushes - 1 }

/-- FLUSHED (R75): on an UNMAPPED lane, or with no flush pending, it is discarded (R62, R71). A load counts its lane as
settled (R6). -/
def execFlushed (lane : Nat) (s : State) : Host.Outcome State Fault Refusal :=
  becomes s
    (if (s.part.lane lane).state = .unmapped ∨ (s.part.lane lane).flushes = 0 then s.part
    else
      let p := s.part.modLane lane Lane.flushed
      if (p.lane lane).flushes = 0 ∧ p.loadAwaits lane then afterLane lane [] (settleLoadLane lane p)
      else afterLane lane [] p)

/-- LOAD_FLUSH_LIMIT (R6): 1 s has passed on a lane of the load without its FLUSHED. -/
def limitLoad (lane : Nat) (p : Part) : Part :=
  match p.slotOfLane lane with
  | some slot =>
    let q := if p.isAbsent slot then p
      else (makeAbsent slot p).onGeometry fun g =>
        { g with load := g.load.map fun l => { l with absentSlots := setBit l.absentSlots slot } }
    settleLoadLane lane q
  | none => p

/-- LOAD_FLUSH_LIMIT (R6). -/
def execLoadFlushLimit (lane : Nat) (s : State) : Host.Outcome State Fault Refusal :=
  becomes s (if s.part.loadAwaits lane then afterLane lane [] (limitLoad lane s.part) else s.part)

/-- RECLAIM_FLUSH_LIMIT (R75): the member is made ABSENT. -/
def execReclaimFlushLimit (lane : Nat) (s : State) : Host.Outcome State Fault Refusal :=
  becomes s
    (if (s.part.lane lane).state = .flushingReclaim then
      match s.part.slotOfLane lane with
      | some slot => afterLane lane [] (makeAbsent slot s.part)
      | none => s.part
    else s.part)

end Sys2Proof.Machine
end

