-- ==== Sys2Proof/Machine/RegisterCommands.lean ====
section
/-! DEFINITION. The meanings of the register commands, the CONTROL commands and the resets (R182 to R186, R195 to
R201). -/

namespace Sys2Proof.Machine

/-- ANCHOR_WRITE (R195). -/
def execAnchorWrite (value : Word) (s : State) : Host.Outcome State Fault Refusal :=
  becomes s (finish (writeAnchor value s.part))

/-- NUDGE (R188). -/
def execNudge (_value : Word) (s : State) : Host.Outcome State Fault Refusal :=
  becomes s (finish (nudgeIntake s.part))

/-- LOG_TAKEN_WRITE (R136, R195). -/
def execLogTakenWrite (value : Word) (s : State) : Host.Outcome State Fault Refusal :=
  becomes s (finish (writeLogTaken value s.part))

/-- The pending causes a read of `count` bytes of ALERT from byte `first` on returns (R195, R199, R209). -/
def returnedCauses (pending : BitVec 12) (first count : Nat) : BitVec 12 :=
  BitVec.ofNat 12 (pending.toNat / 2 ^ (8 * first) % 2 ^ (8 * count) * 2 ^ (8 * first))

/-- A read of ALERT: the bytes covered are returned, and every cause they return leaves the pending set (R199). -/
def readAlert (first count : Nat) (p : Part) : Part :=
  ((p.onRegs fun r => { r with readData := narrow (p.readRegister .alert) first count }).onAlerts fun a =>
    { a with pending := a.pending &&& ~~~(returnedCauses a.pending first count) }).spend

/-- ALERT_READ (R199). -/
def execAlertRead (first count : Nat) (s : State) : Host.Outcome State Fault Refusal :=
  becomes s (finish (readAlert first count s.part))

/-- ALERT_WRITE (R199, R200). -/
def execAlertWrite (value : Word) (s : State) : Host.Outcome State Fault Refusal :=
  becomes s (finish (writeAlert value s.part))

/-- A read of CONTROL: it clears BIND_FAILED and REFUSED (R196). -/
def readControl (first count : Nat) (p : Part) : Part :=
  (p.onRegs fun r =>
    { r with readData := narrow (p.readRegister .control) first count, bindFailed := false, refused := false }).spend

/-- CONTROL_READ (R196). -/
def execControlRead (first count : Nat) (s : State) : Host.Outcome State Fault Refusal :=
  becomes s (finish (readControl first count s.part))

/-- BIND (R184). -/
def execBind (s : State) : Host.Outcome State Fault Refusal := becomes s (finish (bindEngine s.part))

/-- UNBIND (R185). -/
def execUnbind (s : State) : Host.Outcome State Fault Refusal := becomes s (finish (unbindEngine s.part))

/-- CLEAR_CHAIN_FAULT (R189, R197). -/
def execClearChainFault (s : State) : Host.Outcome State Fault Refusal :=
  becomes s (finish (clearConditions [.chainFault] s.part))

/-- CLEAR_LOG_FAULT (R137, R197). -/
def execClearLogFault (s : State) : Host.Outcome State Fault Refusal :=
  becomes s (finish (clearConditions [.logFault] s.part))

/-- CLEAR_BUFFER_PARITY (R119, R197). -/
def execClearBufferParity (s : State) : Host.Outcome State Fault Refusal :=
  becomes s (finish (clearConditions [.bufferParity] s.part))

/-- CLEAR_RETRY_OVERFLOW (R119, R129, R197). -/
def execClearRetryOverflow (s : State) : Host.Outcome State Fault Refusal :=
  becomes s (finish (clearConditions [.retryOverflow] s.part))

/-- CLEAR_SPARE_FAULT (R119, R197). -/
def execClearSpareFault (s : State) : Host.Outcome State Fault Refusal :=
  becomes s (finish (clearConditions [.spareFault] s.part))

/-- CLEAR_CHECKPOINT_FAULT (R145, R197). -/
def execClearCheckpointFault (s : State) : Host.Outcome State Fault Refusal :=
  becomes s (finish (clearConditions [.checkpointFault] s.part))

/-- ENGINE_RESET (R186). -/
def execEngineReset (taken : Nat) (s : State) : Host.Outcome State Fault Refusal := becomes s (s.part.engineReset taken)

/-- POWER_ON_RESET (R186). -/
def execPowerOnReset (taken : Nat) (s : State) : Host.Outcome State Fault Refusal := becomes s (s.part.afterReset taken)

/-- HOST_LINK_RESET (R186). -/
def execHostLinkReset (taken : Nat) (s : State) : Host.Outcome State Fault Refusal := becomes s (s.part.afterReset taken)

/-- REGISTER_WRITE (R195, R196). -/
def execRegisterWrite (offset width : Nat) (value : Word) (s : State) : Host.Outcome State Fault Refusal :=
  becomes s (finish (writeRegister offset width value s.part))

end Sys2Proof.Machine
end

