-- ==== Sys2Proof/Machine/SweepCommands.lean ====
section
/-! DEFINITION. The meanings of the sweep's own steps: launches (R101, R103, R104), coming to rest (R114, R118), and the
window timer (R157). -/

namespace Sys2Proof.Machine

/-! ### Context launch (R100, R101) -/

/-- A context at launch (R100), with the reason of the Retry List entry it takes (R128). -/
def Context.launch (stripe attempt : Nat) (source : Pass) (entryReason : Option Reason) : Context :=
  { stripe, attempt, source, entryReason, phase := .lockWait, settled := false, nextRow := 0, lostRows := 0, mendedRows := 0,
    mendFailed := false, involved := 0, deferral := none, reserved := true, band := none, joining := false }

/-- The window has room, and the Findings Writer grants a reservation (R101, R133). -/
def Part.mayLaunch (p : Part) : Bool :=
  match p.geometry.profile with
  | some g => p.sweep.inPass && p.places.length < g.sweepWindow && p.stagingFree && p.findings.waiting = []
  | none => false

/-- A context takes the lowest free place and asks for its stripe's lock (R101). -/
def placeContext (place : Nat) (c : Context) (p : Part) : Part :=
  requestLock (.context place) c.stripe .exclusive
    (p.onSweep fun s => { s with window := s.window.set place (some c) })

/-- A context launches when every condition of R101 holds: in the main pass for stripe N, in the retry pass for the oldest
untaken entry. -/
def launchContext (p : Part) : Part :=
  match lowestIndex Option.isNone p.sweep.window with
  | some place =>
    if p.mayLaunch then
      if p.sweep.state = .sweeping then
        if p.sweep.next < p.stripeCount then
          finish (placeContext place (.launch p.sweep.next 1 .main none) (p.onSweep fun s => { s with next := s.next + 1 }))
        else p
      else
        match takeOldest place p.retry.onChip with
        | some (entry, list) =>
          finish (placeContext place (.launch entry.stripe entry.attempt .retry (some entry.reason))
            (p.onRetry fun r => { r with onChip := list }))
        | none => p
    else p
  | none => p

/-- CONTEXT_LAUNCH (R101). -/
def execContextLaunch (s : State) : Host.Outcome State Fault Refusal := becomes s (launchContext s.part)

/-! ### Band launch (R51, R103, R104) -/

/-- The slots a band reads: members neither TARGET nor ABSENT (R51). -/
def readerSlots (g : Profile) (p : Part) : List Nat := g.slots.filter fun s => (p.member s).state = .online

/-- The rows a band takes (R103). -/
def bandRowCount (g : Profile) (p : Part) (nextRow : Nat) : Nat :=
  min (min g.bandRows (g.k - nextRow))
    (min p.pace.remaining (p.freeFrames .sweep / ((readerSlots g p).length + 1)))

/-- The layout of a sweep band: for each row a frame per reader and one for the target (R51). -/
def sweepLayout (readers : List Nat) (target : Nat) : List Nat → List Nat → List FramePlace
  | [], _ => []
  | row :: rows, frames =>
    ((readers.zip frames).map fun (s, f) => { row, slot := s, part := .old, frame := f }) ++
      [{ row, slot := target, part := .new, frame := frames.getD readers.length 0 }] ++
      sweepLayout readers target rows (frames.drop (readers.length + 1))

/-- A launched band hands over one READ for each reader (R104). -/
def bandReads (g : Profile) (p : Part) (place stripe : Nat) (b : SweepBand) : List LaneRequest :=
  b.readers.map fun s =>
    newRequest g p (.sweepBand place) stripe false false s b.row0 b.count
      (b.rows.filterMap fun r => frameAt b.places r s .old)

/-- A band of `count` rows launches: frames granted, budget and next row moved, READs handed over (R51, R103, R104). -/
def startSweepBand (place count : Nat) (g : Profile) (c : Context) (p : Part) : Part :=
  let readers := readerSlots g p
  let target := p.targetSlot.getD 0
  let frames := p.grantable .sweep ((readers.length + 1) * count)
  let rows := (List.range count).map (· + c.nextRow)
  let b : SweepBand :=
    { row0 := c.nextRow, count, target, readers, places := sweepLayout readers target rows frames, results := [],
      stage := .reading, jobs := [], writeRows := [], mends := [] }
  let granted := (grantFrames (.sweepBand place) frames p).onPace fun x => { x with remaining := x.remaining - count }
  handRequests (bandReads g p place c.stripe b)
    (granted.modContext place fun x => { x with band := some b, nextRow := x.nextRow + count })

/-- A context waits to launch a band (R103). -/
def Context.waitsToLaunch (c : Context) (g : Profile) : Bool := c.phase = .banding && c.band = none && c.nextRow < g.k

/-- The place of the next band launch: contexts that wait to launch are tried in increasing order of place (R103). -/
def Part.nextLauncher (p : Part) (g : Profile) : Option Nat :=
  lowestIndex (fun c => c.any fun x => x.waitsToLaunch g) p.sweep.window

/-- A band launches for the context in a place when it is that context's turn, the conditions of R103 hold and it fits a
row. Each launch, a first one or one tried again after a release or at a window's start (R52, R151), is a step of its own
(log 37). -/
def launchBand (place : Nat) (p : Part) : Part :=
  match p.geometry.profile, p.context? place with
  | some g, some c =>
    let count := bandRowCount g p c.nextRow
    if p.sweep.inPass ∧ p.nextLauncher g = some place ∧ 1 ≤ count then
      finish (settleWork (advanceBands [] (startSweepBand place count g c p)))
    else p
  | _, _ => p

/-- BAND_LAUNCH (R103). -/
def execBandLaunch (place : Nat) (s : State) : Host.Outcome State Fault Refusal := becomes s (launchBand place s.part)

/-! ### Coming to rest (R114, R118) -/

/-- The sweep enters PAUSED (R91, R112, R114). -/
def pauseSweep (p : Part) : Part := completePauses (requestCheckpoint (contextsGiveUp (setSweepState .paused p)))

/-- ENTER_PAUSED (R114). -/
def execEnterPaused (s : State) : Host.Outcome State Fault Refusal :=
  becomes s
    (if s.part.sweep.state = .pausing ∧ s.part.sweepSettled then finish (settleWork (pauseSweep s.part)) else s.part)

/-- ENTER_HALTED (R118, R119). -/
def execEnterHalted (s : State) : Host.Outcome State Fault Refusal :=
  becomes s
    (if s.part.sweep.state = .halting ∧ s.part.sweepSettled then finish (settleWork (enterHaltedState s.part))
     else s.part)

/-- WINDOW_TIMER_EXPIRY (R157). -/
def execWindowTimerExpiry (s : State) : Host.Outcome State Fault Refusal :=
  becomes s
    (if s.part.pace.timer.isSome then finish (s.part.onPace fun c => c.windowEnd s.part.backlog) else s.part)

end Sys2Proof.Machine
end

