-- ==== Sys2Proof/Machine/Dispatch.lean ====
section
/-! DEFINITION. One arm per command: each is one direct call of its meaning. -/

namespace Sys2Proof.Machine

def exec (i : Instr) (s : State) : Host.Outcome State Fault Refusal :=
  match i with
  | .readExtent entry => Sys2Proof.Machine.execReadExtent entry s
  | .writeExtent entry => Sys2Proof.Machine.execWriteExtent entry s
  | .loadProfile entry => Sys2Proof.Machine.execLoadProfile entry s
  | .memberState entry => Sys2Proof.Machine.execMemberState entry s
  | .startSweep entry => Sys2Proof.Machine.execStartSweep entry s
  | .pauseSweep entry => Sys2Proof.Machine.execPauseSweep entry s
  | .resumeSweep entry => Sys2Proof.Machine.execResumeSweep entry s
  | .abandonSweep entry => Sys2Proof.Machine.execAbandonSweep entry s
  | .setPace entry => Sys2Proof.Machine.execSetPace entry s
  | .checkpointNow entry => Sys2Proof.Machine.execCheckpointNow entry s
  | .setRetryArea entry => Sys2Proof.Machine.execSetRetryArea entry s
  | .report entry taken => Sys2Proof.Machine.execReport entry taken s
  | .barrier entry => Sys2Proof.Machine.execBarrier entry s
  | .unknownOrderKind entry => Sys2Proof.Machine.execUnknownOrderKind entry s
  | .anchorWrite value => Sys2Proof.Machine.execAnchorWrite value s
  | .nudge value => Sys2Proof.Machine.execNudge value s
  | .logTakenWrite value => Sys2Proof.Machine.execLogTakenWrite value s
  | .alertRead first count => Sys2Proof.Machine.execAlertRead first count s
  | .alertWrite value => Sys2Proof.Machine.execAlertWrite value s
  | .controlRead first count => Sys2Proof.Machine.execControlRead first count s
  | .bind => Sys2Proof.Machine.execBind s
  | .unbind => Sys2Proof.Machine.execUnbind s
  | .clearChainFault => Sys2Proof.Machine.execClearChainFault s
  | .clearLogFault => Sys2Proof.Machine.execClearLogFault s
  | .clearBufferParity => Sys2Proof.Machine.execClearBufferParity s
  | .clearRetryOverflow => Sys2Proof.Machine.execClearRetryOverflow s
  | .clearSpareFault => Sys2Proof.Machine.execClearSpareFault s
  | .clearCheckpointFault => Sys2Proof.Machine.execClearCheckpointFault s
  | .engineReset taken => Sys2Proof.Machine.execEngineReset taken s
  | .powerOnReset taken => Sys2Proof.Machine.execPowerOnReset taken s
  | .hostLinkReset taken => Sys2Proof.Machine.execHostLinkReset taken s
  | .registerWrite offset width value => Sys2Proof.Machine.execRegisterWrite offset width value s
  | .anchorRead bytes => Sys2Proof.Machine.execAnchorRead bytes s
  | .unbindDrainEnd => Sys2Proof.Machine.execUnbindDrainEnd s
  | .recordFetch result => Sys2Proof.Machine.execRecordFetch result s
  | .linkReread bytes => Sys2Proof.Machine.execLinkReread bytes s
  | .chainResumeRead bytes => Sys2Proof.Machine.execChainResumeRead bytes s
  | .detailWriteEnd entry fault => Sys2Proof.Machine.execDetailWriteEnd entry fault s
  | .completionWordWriteEnd entry fault => Sys2Proof.Machine.execCompletionWordWriteEnd entry fault s
  | .reportWriteEnd entry fault => Sys2Proof.Machine.execReportWriteEnd entry fault s
  | .statusWordWriteEnd word fault => Sys2Proof.Machine.execStatusWordWriteEnd word fault s
  | .profileFetch bytes => Sys2Proof.Machine.execProfileFetch bytes s
  | .loadFlushLimit lane => Sys2Proof.Machine.execLoadFlushLimit lane s
  | .requestIssue lane upsets => Sys2Proof.Machine.execRequestIssue lane upsets s
  | .good lane tag sectors upsets => Sys2Proof.Machine.execGood lane tag sectors upsets s
  | .medium lane tag index sectors upsets => Sys2Proof.Machine.execMedium lane tag index sectors upsets s
  | .notReady lane tag upsets => Sys2Proof.Machine.execNotReady lane tag upsets s
  | .flushed lane => Sys2Proof.Machine.execFlushed lane s
  | .requestTimerExpiry lane tag upsets => Sys2Proof.Machine.execRequestTimerExpiry lane tag upsets s
  | .reclaimFlushLimit lane => Sys2Proof.Machine.execReclaimFlushLimit lane s
  | .orderBandGrant => Sys2Proof.Machine.execOrderBandGrant s
  | .reconstructionJobEnd owner row upsets => Sys2Proof.Machine.execReconstructionJobEnd owner row upsets s
  | .deltaJobEnd entry row upsets => Sys2Proof.Machine.execDeltaJobEnd entry row upsets s
  | .fullRowJobEnd entry row upsets => Sys2Proof.Machine.execFullRowJobEnd entry row upsets s
  | .fullRowReconstructionJobEnd entry row upsets => Sys2Proof.Machine.execFullRowReconstructionJobEnd entry row upsets s
  | .contextLaunch => Sys2Proof.Machine.execContextLaunch s
  | .bandLaunch place => Sys2Proof.Machine.execBandLaunch place s
  | .extensionJoinWriteEnd fault => Sys2Proof.Machine.execExtensionJoinWriteEnd fault s
  | .refillReadEnd bytes => Sys2Proof.Machine.execRefillReadEnd bytes s
  | .checkpointWriteEnd result => Sys2Proof.Machine.execCheckpointWriteEnd result s
  | .checkpointReadEnd => Sys2Proof.Machine.execCheckpointReadEnd s
  | .enterPaused => Sys2Proof.Machine.execEnterPaused s
  | .enterHalted => Sys2Proof.Machine.execEnterHalted s
  | .windowTimerExpiry => Sys2Proof.Machine.execWindowTimerExpiry s
  | .logBodyWriteEnd fault => Sys2Proof.Machine.execLogBodyWriteEnd fault s
  | .logHeaderWriteEnd fault => Sys2Proof.Machine.execLogHeaderWriteEnd fault s
  | .deliveryEnd entry result upsets => Sys2Proof.Machine.execDeliveryEnd entry result upsets s
  | .gatherEnd entry result upsets => Sys2Proof.Machine.execGatherEnd entry result upsets s

end Sys2Proof.Machine
end

