-- ==== Sys2Proof/Safety.lean ====
section
/-! DEFINITION. What the claims are stated in: what a command leaves alone, what an order's owner finds, and the laws that
every step keeps (R9, R15, R67, R82 to R87, R124, R133, R149, R194, R200). -/

namespace Sys2Proof.Machine

/-! ### Orders -/

/-- Entry `e` holds an order just handed over, with record `r`, and it is the next to be taken (R190, log 2). -/
def OrderReady (s : State) (e : Nat) (r : OrderRecord) : Prop :=
  s.part.table.handed.head? = some e ∧ s.part.entry? e = some { record := r, work := .handed }

/-- The order in entry `e` has finished with a status and two details, and its detail words are being written into bytes 8
and 16 of its record (R193, R203). -/
def Finished (s : State) (e : Nat) (status : Status) (a b : Word) : Prop :=
  ∃ r : OrderRecord,
    s.part.entry? e = some { record := r, work := .completing status a b false, writes := r.detailWrites a b }

/-- The order in entry `e` has finished with a status; its details are not said. -/
def FinishedWith (s : State) (e : Nat) (status : Status) : Prop := ∃ a b, Finished s e status a b

/-! ### Frames -/

/-- What a frame speaks of: the twelve blocks of the part beside the Order Table and the status page, the intake being
its place in the chain. -/
inductive Region where
  | regs | engine | chain | alerts | geometry | buffer | lanes | locks | sweep | retry | findings | store | pace
deriving DecidableEq, Repr

/-- The intake is unchanged but for what dispatch and fetching move: the holding list, the BARRIER hold and the fetch in
flight (R187, R190, R191). -/
def SameChain (s t : State) : Prop :=
  t.part.intake =
    { s.part.intake with
      holding := t.part.intake.holding, barrier := t.part.intake.barrier, fetch := t.part.intake.fetch,
      fetchAddress := t.part.intake.fetchAddress }

/-- The Alert Unit is unchanged but for its output, which R200 gives at every moment. -/
def SameAlerts (s t : State) : Prop := t.part.alerts = { s.part.alerts with attention := t.part.alerts.attention }

/-- Every entry of the Order Table in use, but for the ones listed and the BARRIER that holds dispatch, is unchanged. -/
def KeepsOrders (es : List Nat) (s t : State) : Prop :=
  ∀ i x, i ∉ es → s.part.intake.barrier ≠ some i → s.part.entry? i = some x → t.part.entry? i = some x

/-- Nothing is changed but the regions listed, the Order Table entries listed, and what follows from the part's state at
every moment: dispatch and fetching (R187, R190), a BARRIER that completes (R191), the status page (R194), the attention
output (R200) and the model's own counter. -/
def SameBut (rs : List Region) (es : List Nat) (s t : State) : Prop :=
  t.pending = s.pending ∧ KeepsOrders es s t ∧
    (.regs ∉ rs → t.part.regs = s.part.regs) ∧ (.engine ∉ rs → t.part.engine.state = s.part.engine.state) ∧
    (.chain ∉ rs → SameChain s t) ∧ (.alerts ∉ rs → SameAlerts s t) ∧
    (.geometry ∉ rs → t.part.geometry = s.part.geometry) ∧ (.buffer ∉ rs → t.part.buffer = s.part.buffer) ∧
    (.lanes ∉ rs → t.part.lanes = s.part.lanes) ∧ (.locks ∉ rs → t.part.locks = s.part.locks) ∧
    (.sweep ∉ rs → t.part.sweep = s.part.sweep) ∧ (.retry ∉ rs → t.part.retry = s.part.retry) ∧
    (.findings ∉ rs → t.part.findings = s.part.findings) ∧ (.store ∉ rs → t.part.store = s.part.store) ∧
    (.pace ∉ rs → t.part.pace = s.part.pace)

/-- The CLEAR command that names one condition (R197). -/
def clearCommand : Condition → Instr
  | .chainFault => .clearChainFault
  | .logFault => .clearLogFault
  | .bufferParity => .clearBufferParity
  | .retryOverflow => .clearRetryOverflow
  | .spareFault => .clearSpareFault
  | .checkpointFault => .clearCheckpointFault

/-- What only some commands may touch: the register window (R195, R196); the engine's state (R182); the findings log's
place (R135, R136); the alert levels, mask and mode (R198 to R200); the checkpoint slots (R142); the installed profile
(R5); the lanes' tags (R67); the members' counters (R9); everything, by a reset (R186). -/
inductive Touch where
  | regs | engine | log | alerts | slots | profile | tags | counters | reset
deriving DecidableEq, Repr

/-- What a command may touch; a command not named touches none of these. -/
def touches : Instr → List Touch
  | .memberState _ => [.tags, .counters]
  | .report _ _ => [.slots]
  | .anchorWrite _ => [.regs]
  | .logTakenWrite _ => [.regs]
  | .alertRead _ _ => [.regs]
  | .alertWrite _ => [.alerts]
  | .controlRead _ _ => [.regs]
  | .bind => [.regs, .engine]
  | .unbind => [.regs, .engine]
  | .clearChainFault => [.regs]
  | .clearLogFault => [.regs]
  | .clearBufferParity => [.regs]
  | .clearRetryOverflow => [.regs]
  | .clearSpareFault => [.regs]
  | .clearCheckpointFault => [.regs]
  | .engineReset _ => [.reset]
  | .powerOnReset _ => [.reset]
  | .hostLinkReset _ => [.reset]
  | .registerWrite _ _ _ => [.regs, .engine, .alerts, .reset]
  | .anchorRead _ => [.regs, .engine, .log, .alerts]
  | .unbindDrainEnd => [.engine]
  | .profileFetch _ => [.profile, .tags, .counters]
  | .loadFlushLimit _ => [.tags, .counters]
  | .requestIssue _ _ => [.tags]
  | .good _ _ _ _ => [.tags, .counters]
  | .medium _ _ _ _ _ => [.tags, .counters]
  | .notReady _ _ _ => [.tags, .counters]
  | .flushed _ => [.tags, .counters]
  | .requestTimerExpiry _ _ _ => [.tags, .counters]
  | .reclaimFlushLimit _ => [.tags]
  | .checkpointWriteEnd _ => [.slots]
  | .logHeaderWriteEnd _ => [.log]
  | _ => []

/-! ### What a command answers -/

/-- The command answers a next state whose part is `p`, the queue unchanged. -/
def Answers (c : Instr) (s : State) (p : Part) : Prop := exec c s = .next { s with part := p }

/-- The part once its owner has taken the oldest order handed over (log 2). -/
def Part.taken (p : Part) : Part := p.onTable fun t => { t with handed := t.handed.drop 1 }

/-- CHAIN_FAULT as the chain shows it: latched and pending, the intake FAULTED with this faulting address (R189). -/
def Faulted (t : State) (address : Word) : Prop :=
  t.part.isLatched .chainFault = true ∧ t.part.alerts.pending.getLsbD Cause.chainFault.bit = true ∧
    t.part.intake.state = .faulted ∧ t.part.intake.faultAddress = address ∧ t.part.intake.holding = []

/-- A fetched record is on its way: in the holding list, or handed to its owner from an entry (R187, R190). -/
def Entered (r : OrderRecord) (t : State) : Prop :=
  r ∈ t.part.intake.holding ∨ ∃ e, t.part.entry? e = some { record := r, work := .handed }

/-- The erased slots of a row as a job sees it, parity included (R36). -/
def RowView.erasures (v : RowView) : Nat :=
  (erasedFrom 0 v.data).length + (if v.p = none then 1 else 0) + (if v.q = none then 1 else 0)

/-- The table after a requester has given up its lock or its request (R86, R88, R91). -/
def LockTable.givenUp (t : LockTable) (q : Requester) : LockTable :=
  if t.holds q then (t.release q).1 else if t.waits q then (t.withdraw q).1 else t

/-! ### Requests and order bands -/

/-- Blocks of an owner's rows take results, as (row, slot, result), and nothing else of its band changes (R26). -/
def Recorded (o : Owner) (rs : List (Nat × Nat × BlockResult)) (p u : Part) : Prop :=
  (∀ place b, o = .sweepBand place → p.sweepBand? place = some b →
      u.sweepBand? place = some { b with results := b.results ++ rs }) ∧
    ∀ e v, o = .orderBand e → p.bandView e = some v →
      (u.bandView e).map (·.band) =
        some { v.band with rows := v.band.rows.map fun w =>
                 { w with results := w.results ++ (rs.filter fun x => x.1 = w.row).map (·.2) } }

/-- The rows of an order band stand in increasing order (R167). -/
def RowsOrdered (rows : List RowWork) : Prop := (rows.map (·.row)).Pairwise (· < ·)

/-- The touched rows an extent order has not yet taken, and the rows of its band, stand in increasing order (R165, R167). -/
def Extent.RowsInOrder (x : Extent) : Prop := x.rowsLeft.Pairwise (· < ·) ∧ ∀ b, x.band = some b → RowsOrdered b.rows

/-- Every extent order's rows stand in increasing order (R165, R167). -/
def BandLaw (p : Part) : Prop := ∀ e x, p.extent? e = some x → x.RowsInOrder

/-- The slot may be read for an order band: it is not the unbuilt slot, and its member is ONLINE or TARGET (R168). -/
def canRead (p : Part) (ext : Extent) (slot : Nat) : Bool :=
  ext.unbuilt ≠ some slot && ((p.member slot).state = .online || (p.member slot).state = .target)

/-- The READs of an order band in which each of its rows asks for the slots `asks` gives it: one of class ORDER for each
slot and each maximal run of consecutive rows that ask for it, which is what `consecutiveRuns` gives (R168). -/
def readsFor (p : Part) (e : Nat) (v : BandView) (asks : RowWork → List Nat) : List LaneRequest :=
  (List.range v.g.m).flatMap fun slot =>
    (consecutiveRuns (v.band.rows.flatMap fun w => ((asks w).filter (· = slot)).map fun _ => w.row)).map fun run =>
      { owner := .orderBand e, write := false, slot, lane := (p.member slot).lane,
        lba := v.g.base + v.stripe * v.g.k + run.1, count := run.2, row := run.1,
        frames := (List.range run.2).filterMap fun i => frameAt v.band.places (run.1 + i) slot .old,
        mend := false, retries := 0, origin := .first }

/-- Requests have joined the order queues of their lanes in order; nothing else of the lanes changes (R63, R64). -/
def OrderQueued (qs : List LaneRequest) (p u : Part) : Prop :=
  ∀ l, l < p.lanes.length →
    u.lane l = { p.lane l with orderQueue := (p.lane l).orderQueue ++ qs.filter fun q => q.lane = l }

/-- A band's work on its rows becomes `rows`; the rest of the band is unchanged, and its `asked` READs join the lanes. The
Stripe Buffer is unchanged. -/
def RowsGoOn (p : Part) (e : Nat) (v : BandView) (rows : List RowWork) (asked : List LaneRequest) (u : Part) : Prop :=
  (u.bandView e).map (·.band) = some { v.band with rows } ∧ OrderQueued asked p u ∧ u.buffer = p.buffer

/-- The erased slots of a row: all but those with a GOOD result (R28, R168). -/
def erasedSlots (v : BandView) (w : RowWork) : List Nat := v.g.slots.filter fun s => w.result? s ≠ some .good

/-- A READ band begins (R169): each row reads the readable slots of its requested blocks, and one with a requested slot that
is not readable the other readable slots too, as its reconstruction phase. -/
def ReadBandBegins (p : Part) (e : Nat) (v : BandView) (u : Part) : Prop :=
  let direct := fun w : RowWork => w.want.filter (canRead p v.ext)
  let whole := fun w : RowWork => w.want.all (canRead p v.ext)
  let others := fun w : RowWork =>
    if whole w then [] else v.g.slots.filter fun s => canRead p v.ext s && !w.want.contains s
  RowsGoOn p e v
    (v.band.rows.map fun w =>
      { w with phase := if whole w then w.phase else .reconstructing, asked := w.asked ++ direct w ++ others w })
    (readsFor p e v direct ++ readsFor p e v others) u

/-- A READ band goes on (R169, R170): a row with an erasure among its direct results asks for the readable slots not yet
read and is in its reconstruction phase; a direct row with every result is ready; a reconstructing row with every result
loses its erased requested blocks when three or more of its slots are erased, the others ready, and hands over a
reconstruction job for them otherwise. The lost blocks are counted, the lowest address kept. -/
def ReadBandGoesOn (p : Part) (e : Nat) (v : BandView) (u : Part) : Prop :=
  let more := fun w : RowWork =>
    if w.phase = .direct && w.results.any (fun x => x.2 ≠ .good) then
      v.g.slots.filter fun s => canRead p v.ext s && !w.asked.contains s
    else []
  let entered := fun w : RowWork =>
    if w.phase = .direct && w.results.any (fun x => x.2 ≠ .good) then
      { w with phase := .reconstructing, asked := w.asked ++ more w }
    else w
  let lost := fun w : RowWork =>
    if w.phase = .reconstructing && w.settled && 3 ≤ (erasedSlots v w).length then
      w.want.filter (erasedSlots v w).contains
    else []
  let goesOn := fun w : RowWork =>
    if w.settled = false then w
    else if w.phase = .direct then { w with phase := .ready, ready := w.want }
    else if w.phase ≠ .reconstructing then w
    else if 3 ≤ (erasedSlots v w).length then
      { w with phase := .ready, ready := w.want.filter fun s => !(erasedSlots v w).contains s }
    else
      { w with phase := .job,
               job := some { erased := erasedSlots v w, wanted := w.want.filter (erasedSlots v w).contains, parity := [] } }
  let addresses := (v.band.rows.map entered).flatMap fun w => (lost w).map (v.address w.row)
  RowsGoOn p e v (v.band.rows.map fun w => goesOn (entered w)) (readsFor p e v more) u ∧
    (u.extent? e).map (fun x => (x.lost, x.firstLost)) =
      some (v.ext.lost + addresses.length, (v.ext.firstLost.toList ++ addresses).min?) ∧
    ∀ w ∈ v.band.rows, ∀ s d, v.g.role v.stripe s = .data d → v.address w.row s = v.g.blockAt v.stripe d w.row

/-- The parity slots of the stripe in hand whose members are not ABSENT (R43, R173). -/
def parityInUse (p : Part) (v : BandView) : List Nat :=
  [v.g.pSlot v.stripe, v.g.qSlot v.stripe].filter fun s => (p.member s).state ≠ .absent

/-- The data slots of a row that the order does not write (R173). -/
def notWritten (v : BandView) (w : RowWork) : List Nat :=
  ((List.range v.g.n).map (v.g.dataSlot v.stripe)).filter fun s => !w.want.contains s

/-- The method of a WRITE row, the first of the table of R173 that applies. -/
def methodOf (p : Part) (v : BandView) (w : RowWork) : Method :=
  if parityInUse p v = [] then .parityLess
  else if notWritten v w = [] then .fullNoReads
  else if (w.want ++ parityInUse p v).all (canRead p v.ext) then .delta
  else .full

/-- The gathered rows of a WRITE band take their methods (R173): DELTA reads the old values of the written blocks and of the
parity in use, FULL the unwritten data, and a row with nothing to read hands over its full-row job. With no parity in use
each row in turn goes to its writes (R176). -/
def WriteBandBegins (p : Part) (e : Nat) (v : BandView) (u : Part) : Prop :=
  let parity := parityInUse p v
  let reads := fun w : RowWork =>
    match methodOf p v w with
    | .delta => w.want ++ parity
    | .full => (notWritten v w).filter fun s => canRead p v.ext s && !w.asked.contains s
    | _ => []
  (parity ≠ [] →
    RowsGoOn p e v
      (v.band.rows.map fun w =>
        if methodOf p v w = .fullNoReads then
          { w with method := .fullNoReads, asked := [], phase := .job, job := some { erased := [], wanted := [], parity } }
        else { w with method := methodOf p v w, asked := reads w, phase := .reading })
      (readsFor p e v reads) u) ∧
    (parity = [] →
      u = v.band.rows.foldl
        (fun x w => writeRow e w.row
          (x.modRow e w.row fun y => { y with method := .parityLess, phase := .reading, asked := [] })) p)

/-- A WRITE band with parity in use goes on (R174, R175): a DELTA row with every result hands over its delta job, its
erased inputs named; a FULL row its full-row job when the unwritten data are all GOOD, and otherwise reads the readable
slots not yet read; with these in, a full-row job with reconstruction. -/
def WriteBandGoesOn (p : Part) (e : Nat) (v : BandView) (u : Part) : Prop :=
  let parity := parityInUse p v
  let settled := fun w : RowWork => w.phase = .reading && w.settled
  let hands := fun (w : RowWork) (erased wanted : List Nat) =>
    { w with phase := .job, job := some { erased, wanted, parity } }
  let good := fun w : RowWork => (notWritten v w).all fun s => w.result? s = some .good
  let moves := fun w : RowWork => settled w && w.method = .full && !good w
  let more := fun w : RowWork =>
    if moves w then v.g.slots.filter fun s => canRead p v.ext s && !w.asked.contains s else []
  let moved := fun w : RowWork =>
    if moves w then { w with method := .fullReconstruction, asked := w.asked ++ more w, job := none } else w
  let goesOn := fun w : RowWork =>
    if !settled w then w
    else match w.method with
      | .delta => hands w (w.asked.filter fun s => w.result? s ≠ some .good) []
      | .full => hands w [] []
      | .fullReconstruction => hands w (erasedSlots v w) ((notWritten v w).filter (erasedSlots v w).contains)
      | _ => w
  RowsGoOn p e v (v.band.rows.map fun w => goesOn (moved w)) (readsFor p e v more) u

/-- The bytes of controller memory that pieces cover, in order. -/
def bytesOf (pieces : List DmaPiece) : List Word :=
  pieces.flatMap fun x => (List.range x.length).map fun i => x.address + BitVec.ofNat 64 i

/-- The moves of a band's blocks (R163, R171, R172): one for each data block of the rows' slots, its pieces the block's
4,096 bytes of the order's buffer space, in increasing extent offset. -/
def MovesFor (v : BandView) (rows : List (Nat × List Nat)) (moves : List BlockMove) : Prop :=
  let space := v.record.scatter.flatMap fun x => (List.range x.length).map fun i => x.address + BitVec.ofNat 64 i
  (∀ m ∈ moves, ∃ d x, d < v.g.n ∧ m.slot = v.g.dataSlot v.stripe d ∧ x ∈ rows ∧ x.1 = m.row ∧ m.slot ∈ x.2 ∧
      bytesOf m.pieces =
        (space.drop ((v.g.blockAt v.stripe d m.row - v.record.firstBlock) * 4096)).take 4096) ∧
    (∀ d x, d < v.g.n → x ∈ rows → v.g.dataSlot v.stripe d ∈ x.2 →
      ∃ m ∈ moves, m.row = x.1 ∧ m.slot = v.g.dataSlot v.stripe d) ∧
    (6 ≤ v.g.m → (rows.map (·.1)).Pairwise (· < ·) → (∀ x ∈ rows, x.1 < v.g.k) →
      moves.Pairwise fun a b => v.address a.row a.slot < v.address b.row b.slot)

/-- A delivery has ended after the blocks `came` (R59, R171, R179): a block whose frame holds a parity error is not given,
nor the row's blocks behind it, and that frame becomes UNFIT; each ready row is done with, completed when all its ready
blocks were given; an error or a fault stops the order. -/
def DeliveryEnds (p : Part) (e : Nat) (v : BandView) (came : List BlockMove) (fault : Bool) (u : Part) : Prop :=
  let fails := fun m : BlockMove => (frameAt v.band.places m.row m.slot .old).any p.parityError
  let clear := fun i m => ∀ j x, j < i → came[j]? = some x → x.row = m.row → fails x = false
  let given := fun row slot => ∃ (i : Nat) (m : BlockMove), came[i]? = some m ∧ m.row = row ∧ m.slot = slot ∧
    fails m = false ∧ clear i m
  let first := fun f => ∃ (i : Nat) (m : BlockMove), came[i]? = some m ∧ frameAt v.band.places m.row m.slot .old = some f ∧
    fails m = true ∧
    clear i m
  (∃ rows, (u.bandView e).map (·.band) = some { v.band with dma := .idle, rows } ∧ rows.length = v.band.rows.length ∧
    ∀ (i : Nat) w, v.band.rows[i]? = some w →
      (w.phase ≠ .ready → rows[i]? = some w) ∧
        (w.phase = .ready → (∀ s ∈ w.ready, given w.row s) → rows[i]? = some { w with phase := .done true }) ∧
        (w.phase = .ready → (∃ s ∈ w.ready, ¬given w.row s) → rows[i]? = some { w with phase := .done false })) ∧
    (u.bandView e).map (·.ext.stop) =
      some (if v.ext.stop ≠ none then v.ext.stop
        else if came.any fails then some .bufferFault else if fault then some .hostMemoryFault else none) ∧
    (∀ f, f < p.buffer.frames.length → (first f → u.frame f = { p.frame f with state := .unfit }) ∧
      (¬first f → u.frame f = p.frame f)) ∧
    (came.any fails = true → u.alerts.pending = setBit p.alerts.pending Cause.bufferParity.bit) ∧
    (came.any fails = false → u.alerts = p.alerts)

/-- The WRITEs of a row: the written data and the computed parity from their new frames and, after a reconstruction, the
rebuilt block of the TARGET, members ABSENT left out (R176). -/
def writesOf (p : Part) (w : RowWork) : List (Nat × FramePart) :=
  let job := w.job.getD { erased := [], wanted := [], parity := [] }
  let present := fun s => (p.member s).state != .absent
  ((w.want ++ job.parity).filter present).map (fun s => (s, .new)) ++
    (if w.method = .fullReconstruction then
      (job.wanted.filter fun s => (p.member s).state = .target).map fun s => (s, .old)
    else [])

/-- A row of an order band goes through its write gate (R57, R59, R176): with an error in a frame of its writes none
is handed over, the frame is UNFIT, the row is done with and the order stops; otherwise one WRITE of one sector for
each, all at once. -/
def RowIsWritten (p : Part) (e : Nat) (v : BandView) (w : RowWork) (u : Part) : Prop :=
  let frames := fun x : Nat × FramePart => (frameAt v.band.places w.row x.1 x.2).toList
  let bad := ((writesOf p w).flatMap frames).filter p.parityError
  let row := fun f : RowWork → RowWork => v.band.rows.map fun x => if x.row = w.row then f x else x
  (bad = [] → RowsGoOn p e v (row fun x => { x with phase := .writing })
    ((writesOf p w).map fun x =>
      { owner := .orderBand e, write := true, slot := x.1, lane := (p.member x.1).lane,
        lba := v.g.base + v.stripe * v.g.k + w.row, count := 1, row := w.row, frames := frames x, mend := false,
        retries := 0, origin := .first }) u) ∧
    (bad ≠ [] →
      (u.bandView e).map (·.band) =
        some { v.band with rows := row fun x => { x with phase := .done false, job := none } } ∧
      (u.bandView e).map (·.ext.stop) = some (some (v.ext.stop.getD .bufferFault)) ∧ u.lanes = p.lanes ∧
      u.alerts.pending = setBit p.alerts.pending Cause.bufferParity.bit ∧
      ∀ f, f < p.buffer.frames.length → u.frame f = if f ∈ bad then { p.frame f with state := .unfit } else p.frame f)

/-- An order band ends once granted, with every row done with, no request outstanding and no host DMA (R55): its frames are
FREE again and its leading completed rows are counted; then the order stops, asks for the stripe's next band, takes the next
stripe, or completes (R59, R92, R166, R167, R171, R180). -/
def BandEnds (p : Part) (e : Nat) (v : BandView) (u : Part) : Prop :=
  let ends := v.band.granted = true ∧ v.band.dma = .idle ∧ (∀ w ∈ v.band.rows, ∃ c, w.phase = .done c) ∧
    p.outstanding (.orderBand e) = []
  let done := v.ext.rowsDone + (v.band.rows.takeWhile fun w => w.phase = .done true).length
  let write := v.record.isWrite
  let b0 := v.record.firstBlock
  let c := v.record.blockCount
  let answers := fun st a b => u.workOf e = some (.completing st (BitVec.ofNat 64 a) b false) ∧
    u.locks = p.locks.givenUp (.order e)
  let per := if write then 2 * v.g.m else v.g.m
  let band := fun (stripe : Nat) (left : List Nat) (x : Extent) =>
    let n := min 8 (min left.length (p.poolSize .order / per))
    x.rowsLeft = left.drop n ∧
      x.band = some { granted := false, places := [], dma := .idle,
                      rows := (left.take n).map fun r => .start write r (requestedSlots v.g b0 c stripe r) } ∧
      u.buffer.queue.getLast? = some (e, per * n)
  let last := v.g.stripeOf (b0 + c - 1) ≤ v.stripe
  (¬ends → u = p) ∧
    (ends →
      (∀ i, i < p.buffer.frames.length → u.frame i =
        if (p.frame i).owner = some (.orderBand e) then { p.frame i with owner := none, state := .free } else p.frame i) ∧
      (∀ cause, v.ext.stop = some cause → ∃ b, answers cause.status done b ∧
        ∀ block, (orderRowBlocks v.g b0 c)[done]? = some block → b = BitVec.ofNat 64 block) ∧
      (v.ext.stop = none →
        (v.ext.rowsLeft ≠ [] → u.locks = p.locks ∧ u.buffer.queue.dropLast = p.buffer.queue ∧ ∃ x, u.extent? e = some x ∧
          x = { v.ext with rowsDone := done, rowsLeft := x.rowsLeft, band := x.band } ∧ band v.stripe v.ext.rowsLeft x) ∧
        (v.ext.rowsLeft = [] → ¬last →
          let asked := (p.locks.release (.order e)).1.request (.order e) (v.stripe + 1)
            (if write then .exclusive else .shared)
          u.locks = asked.1 ∧ ∃ x, u.extent? e = some x ∧ x.stripe = some (v.stripe + 1) ∧ x.rowsDone = done ∧
            x.lost = v.ext.lost ∧ x.firstLost = v.ext.firstLost ∧ x.reconstructed = v.ext.reconstructed ∧
            x.stop = none ∧
            (asked.2 = [] → x.lock = .waiting ∧ x.band = none ∧ x.rebuilt = none ∧ x.unbuilt = none) ∧
            (asked.2 ≠ [] → x.lock = .held ∧ x.rebuilt = some (p.rebuilt (v.stripe + 1)) ∧
              x.unbuilt = (if p.rebuilt (v.stripe + 1) then none else p.targetSlot) ∧
              band (v.stripe + 1) (touchedRows v.g b0 c (v.stripe + 1)) x)) ∧
        (v.ext.rowsLeft = [] → last →
          (0 < v.ext.lost → answers .dataLost v.ext.lost (BitVec.ofNat 64 (v.ext.firstLost.getD 0))) ∧
            (v.ext.lost = 0 → write = false → 0 < v.ext.reconstructed →
              answers .recovered c (BitVec.ofNat 64 v.ext.reconstructed)) ∧
            (v.ext.lost = 0 → write = true ∨ v.ext.reconstructed = 0 → answers .ok c 0))))

/-! ### Settling -/

/-- What the settle steps behind the Retry List's leave of `p`, for the context `c` in a place (R109, R110, R112, R113). -/
def SettledInto (g : Profile) (place : Nat) (c : Context) (p u : Part) : Prop :=
  let found := c.lostRows ≠ 0 ∨ c.mendedRows ≠ 0 ∨ c.mendFailed = true ∨ c.deferral ≠ none
  let ableToWrite := p.isLatched .checkpointFault = false ∧ recordedState p.sweep.state ≠ none
  (found → c.reserved = true → u.findings.staged = p.findings.staged ++ [c.finding]) ∧
    (¬found → u.findings.staged = p.findings.staged) ∧ u.locks = (p.locks.release (.context place)).1 ∧
    (c.source = .main →
      (∀ d, u.context? place = some d → d.settled = true ∧ d.reserved = false ∧ d.joining = false) ∧
        p.sweep.watermark ≤ u.sweep.watermark ∧
        (∀ x, p.sweep.watermark ≤ x → x < u.sweep.watermark → c.stripe = x ∨
          ∃ i d, p.context? i = some d ∧ d.settled = true ∧ d.source = .main ∧ d.stripe = x) ∧
        ∀ i d, u.context? i = some d → d.settled = true → d.source = .main → d.stripe ≠ u.sweep.watermark) ∧
    (c.source = .retry → u.context? place = none ∧ u.sweep.watermark = p.sweep.watermark) ∧
    (g.interval = 0 → u.sweep.settleCount = min 65535 (p.sweep.settleCount + 1)) ∧
    (p.sweep.settleCount + 1 < g.interval → u.sweep.settleCount = p.sweep.settleCount + 1) ∧
    (0 < g.interval → g.interval ≤ p.sweep.settleCount + 1 → u.sweep.settleCount = 0 ∧
      (ableToWrite → u.store.write ≠ none) ∧ (p.store.write ≠ none → u.store.again = true)) ∧
    (p.sweep.state = .sweeping → c.source = .main →
      (u.sweep.watermark < g.stripes → u.sweep.state = .sweeping) ∧
        (g.stripes ≤ u.sweep.watermark →
          (p.retry.isEmpty = false → u.sweep.state = .retrying ∧ u.sweep.pass = .retry) ∧
            (p.retry.isEmpty = true → ableToWrite → u.sweep.state = .finishing ∧ u.store.write ≠ none))) ∧
    (p.sweep.state = .retrying → c.source = .retry →
      let last := p.retry.isEmpty = true ∧ ∀ i, i < 4 → i ≠ place → p.context? i = none
      (last → ableToWrite → u.sweep.state = .finishing ∧ u.store.write ≠ none) ∧
        (¬last → u.sweep.state = .retrying))

/-! ### Reports -/

/-- The Member Table records and the lanes' queue lengths in a report's bytes (R208). -/
def ReportHoldsMembers (p : Part) (b : List Byte) : Prop :=
  ∀ i, i < 24 →
    let m := p.member i
    let l := p.lane m.lane
    let tags := fun n => if m.state = .unmapped then 0 else n
    leField b (16 * i) 1 = m.lane % 256 ∧ leField b (16 * i + 1) 1 = m.state.code ∧
      leField b (16 * i + 2) 1 = m.consecutive % 256 ∧ leField b (16 * i + 3) 1 = tags l.quarantined % 256 ∧
      leField b (16 * i + 4) 1 = tags l.outstanding % 256 ∧ leField b (16 * i + 6) 2 = m.medium % 2 ^ 16 ∧
      leField b (16 * i + 8) 2 = m.timeouts % 2 ^ 16 ∧ leField b (16 * i + 10) 2 = m.trailers % 2 ^ 16 ∧
      leField b (384 + 4 * i) 2 = (p.lane i).sweepQueue.length % 2 ^ 16 ∧
      leField b (386 + 4 * i) 2 = (p.lane i).orderQueue.length % 2 ^ 16

/-- The checkpoint slots, the sweep summary and its context places in a report's bytes (R208). -/
def ReportHoldsSweep (p : Part) (b : List Byte) : Prop :=
  (b.drop 512).take 256 = p.store.slot 0 ∧ (b.drop 768).take 256 = p.store.slot 1 ∧
    leField b 1024 1 = p.sweep.state.code ∧ leField b 1025 1 = p.sweep.pass.code ∧
    leField b 1026 1 = p.sweep.haltSet.toNat ∧ leField b 1027 1 = p.stagedCount % 256 ∧
    leField b 1028 1 = p.reservations % 256 ∧ leField b 1032 4 = p.sweep.watermark % 2 ^ 32 ∧
    leField b 1036 4 = p.sweep.next % 2 ^ 32 ∧ leField b 1040 4 = p.sweep.settleCount % 2 ^ 32 ∧
    ∀ i, i < 4 →
      (∀ c, p.context? i = some c →
        leField b (1056 + 16 * i) 4 = c.stripe % 2 ^ 32 ∧ leField b (1060 + 16 * i) 1 = c.attempt % 256 ∧
          leField b (1061 + 16 * i) 1 = c.source.code ∧ leField b (1062 + 16 * i) 1 = c.phase.code ∧
          leField b (1063 + 16 * i) 1 = bitOf c.settled ∧ leField b (1064 + 16 * i) 1 = c.nextRow % 256 ∧
          leField b (1065 + 16 * i) 1 = 1) ∧
      (p.context? i = none →
        leField b (1061 + 16 * i) 1 < 2 ∧ leField b (1062 + 16 * i) 1 < 3 ∧ leField b (1065 + 16 * i) 1 = 0)

/-- The Retry List in a report's bytes (R207, R208; the order of the places without an entry, log 57). -/
def ReportHoldsRetry (p : Part) (b : List Byte) : Prop :=
  (∀ i, i < 32 →
    (∀ x, p.retry.onChip[i]? = some x →
      leField b (1280 + 16 * i) 1 = 1 ∧ leField b (1281 + 16 * i) 1 = x.attempt % 256 ∧
        leField b (1282 + 16 * i) 1 = x.reason.code ∧ leField b (1283 + 16 * i) 1 = (x.taken.getD 0xFF) % 256 ∧
        leField b (1284 + 16 * i) 4 = x.stripe % 2 ^ 32) ∧
    (p.retry.onChip[i]? = none →
      leField b (1280 + 16 * i) 1 = (if p.retry.refilling = true ∧ i = p.retry.onChip.length then 2 else 0) ∧
        leField b (1282 + 16 * i) 1 < 3 ∧
        (leField b (1283 + 16 * i) 1 < 4 ∨ leField b (1283 + 16 * i) 1 = 0xFF))) ∧
    leField b 1792 4 = p.retry.head % 2 ^ 32 ∧ leField b 1796 4 = p.retry.tail % 2 ^ 32 ∧
    leField b 1800 4 = p.retry.count % 2 ^ 32

/-- The pace state in a report's bytes (R208). -/
def ReportHoldsPace (p : Part) (b : List Byte) : Prop :=
  (∀ at_ set, (at_ = 1808 ∧ set = p.pace.installed) ∨ (at_ = 1824 ∧ set = p.pace.next) →
    (∀ x, set = some x →
      leField b at_ 1 = bitOf x.adaptive ∧ leField b (at_ + 1) 2 = x.floor % 2 ^ 16 ∧
        leField b (at_ + 3) 2 = x.ceiling % 2 ^ 16 ∧ leField b (at_ + 5) 1 = x.low % 256 ∧
        leField b (at_ + 6) 1 = x.high % 256 ∧ leField b (at_ + 7) 1 = x.window % 256 ∧
        leField b (at_ + 8) 2 = x.initial % 2 ^ 16 ∧ leField b (at_ + 10) 1 = 1) ∧
    (set = none → leField b at_ 1 < 2 ∧ leField b (at_ + 10) 1 = 0)) ∧
    leField b 1840 2 = p.pace.budget % 2 ^ 16 ∧ leField b 1842 2 = p.pace.remaining % 2 ^ 16 ∧
    leField b 1844 1 = bitOf p.pace.track ∧ leField b 1845 1 = p.pace.inBand % 256 ∧
    leField b 1846 1 = p.pace.drift % 256 ∧ leField b 1847 1 = bitOf p.pace.below ∧
    leField b 1848 1 = p.pace.lastBacklog % 256 ∧ leField b 1849 1 = bitOf p.pace.timer.isSome

/-! ### Laws that every step keeps -/

/-- A pacing parameter set in the ranges of its fields (R149). -/
def PaceSet.InRange (x : PaceSet) : Prop :=
  1 ≤ x.floor ∧ x.floor ≤ x.ceiling ∧ x.ceiling ≤ 4095 ∧ x.low < x.high

/-- An installed set: in its ranges, its B0 clamped into [F, C] (R149, R150, R160). -/
def PaceSet.Ok (x : PaceSet) : Prop := x.InRange ∧ x.floor ≤ x.initial ∧ x.initial ≤ x.ceiling

/-- B stays in [F, C], the remaining budget never exceeds B and is 0 while the timer is stopped, and the counts stay
below their limits, the drift count 0 in ACQUIRE and the in-band count 0 in TRACK (R149, R151, R154, R155, R160). -/
def PaceLaw (p : Part) : Prop :=
  (∀ x, p.pace.installed = some x → x.Ok ∧ x.floor ≤ p.pace.budget ∧ p.pace.budget ≤ x.ceiling) ∧
    (∀ x, p.pace.next = some x → x.InRange) ∧ p.pace.remaining ≤ p.pace.budget ∧
    (p.pace.timer = none → p.pace.remaining = 0) ∧ p.pace.inBand ≤ 3 ∧ p.pace.drift ≤ 2 ∧
    (p.pace.track = false → p.pace.drift = 0) ∧ (p.pace.track = true → p.pace.inBand = 0)

/-- Holders and waiters of an entry in use: an EXCLUSIVE entry has one holder, a SHARED one at least one, and behind
SHARED holders the first waiter is EXCLUSIVE (R82, R84, R86). -/
def LockEntry.Ok (e : LockEntry) : Prop :=
  e.holders ≠ [] ∧ (e.mode = .exclusive → e.holders.length = 1) ∧
    (e.mode = .shared → ∀ w, e.waiters.head? = some w → w.2 = .exclusive)

/-- The stripes of the entries in use. -/
def LockTable.stripes (t : LockTable) : List Nat :=
  t.entries.filterMap fun x =>
    match x with
    | some e => some e.stripe
    | none => none

/-- One entry at most for a stripe, each entry well held, and requests on the global wait list only for stripes without
an entry and while no entry is free (R82, R84, R85, R87). -/
def LockLaw (p : Part) : Prop :=
  (∀ e, some e ∈ p.locks.entries → e.Ok) ∧ p.locks.stripes.Nodup ∧
    (∀ w ∈ p.locks.waiting, w.stripe ∉ p.locks.stripes) ∧ (p.locks.waiting ≠ [] → none ∉ p.locks.entries)

/-- Staging entries holding findings plus staging reservations never exceed 8 (R133). -/
def StagingLaw (p : Part) : Prop := p.stagedCount + p.reservations ≤ 8

/-- On each lane the ISSUED tags never exceed the lane depth limit, and there are 16 tags, each FREE, ISSUED or
QUARANTINED (R67). -/
def TagLaw (p : Part) : Prop :=
  ∀ l ∈ p.lanes, l.tags.length = 16 ∧ ∀ g, p.geometry.profile = some g → l.outstanding ≤ g.depth

/-- While the array is not FAILED, at most one member is TARGET, and the ABSENT and TARGET members number at most two
(R15). -/
def MemberLaw (p : Part) : Prop :=
  p.geometry.failed = false →
    (p.geometry.members.filter (fun x => x.state = .target)).length ≤ 1 ∧ p.erasures ≤ 2

/-- The counters of the Member Table stay in their ranges (R9). -/
def CounterLaw (p : Part) : Prop :=
  ∀ m ∈ p.geometry.members, m.medium ≤ 65535 ∧ m.timeouts ≤ 65535 ∧ m.trailers ≤ 65535 ∧
    ∀ g, p.geometry.profile = some g → m.consecutive ≤ g.absence

/-- The Retry List never holds more than 32 entries on-chip, a RESERVED place included, nor more than its capacity in the
extension, where a join being written has its place kept (R124, R126, R129). -/
def RetryLaw (p : Part) : Prop :=
  p.retry.onChip.length + (if p.retry.refilling then 1 else 0) ≤ 32 ∧ p.retry.count ≤ p.retry.capacity ∧
    (∀ j, p.retry.busy = .join j false → p.retry.count < p.retry.capacity) ∧
    (p.retry.busy = .refill false → 0 < p.retry.count)

/-- The attention output follows its mode: in LEVEL it is asserted exactly while a pending cause qualifies, in PULSE it is
deasserted (R200). -/
def AttentionLaw (p : Part) : Prop :=
  p.alerts.attention = true ↔
    p.alerts.pulseMode = false ∧
      ∃ i, i < 12 ∧ p.alerts.pending.getLsbD i = true ∧ (p.alerts.level i = 3 ∨ p.alerts.mask < p.alerts.level i)

/-- Every status-page word carries its latest value, or a write of it is in flight to its place with the latest value in it
or a rewrite waiting, while the engine is BOUND or UNBINDING before its last stretch (R185, R194). -/
def StatusLaw (p : Part) : Prop :=
  p.engine.state = .bound ∨ (p.engine.state = .unbinding ∧ p.engine.drained = false) →
    ∀ i w, p.status[i]? = some w →
      (w.writing = none → w.value = p.statusValue i) ∧
        ∀ v, w.writing = some v → v = p.statusWrite i ∨ w.waiting = true

/-- A record in the holding list waits only for a free entry or for a BARRIER, while the engine is BOUND and the intake
not STOPPED (R190). -/
def DispatchLaw (p : Part) : Prop :=
  p.engine.state = .bound → p.intake.state ≠ .stopped → p.intake.holding ≠ [] →
    p.intake.barrier ≠ none ∨ p.table.free = none

end Sys2Proof.Machine
end

