-- ==== Sys2Proof/Certificates/Slice0/Obligations.lean ====
section
/-! DEFINITION. The statements for the provers. A statement about a command's effect concludes that `exec` answers a next
state and says what that state holds; `SameBut` is its frame. Where one cites a log entry, that clause is the model's
choice. -/

open Sys2Proof Sys2Proof.Machine

/-! ### The interface -/

/-- Every command is answered with a next state; a step takes the front command of the queue and runs it with the rest; an
empty queue changes nothing (log 3). -/
def Obligations.StepRunsTheFrontCommand : Prop :=
  ∀ (c : Instr) (s : State),
    step { s with pending := c :: s.pending } = exec c s ∧
      (∃ t, exec c s = .next t ∧ t.pending = s.pending) ∧ (s.pending = [] → step s = .next s)

/-- The machine right after reset meets every law of Safety.lean. -/
def Obligations.ResetMeetsEveryLaw : Prop :=
  PaceLaw State.reset.part ∧ LockLaw State.reset.part ∧ StagingLaw State.reset.part ∧ TagLaw State.reset.part ∧
    MemberLaw State.reset.part ∧ CounterLaw State.reset.part ∧ RetryLaw State.reset.part ∧
    AttentionLaw State.reset.part ∧ StatusLaw State.reset.part ∧ DispatchLaw State.reset.part ∧
    BandLaw State.reset.part

/-! ### Laws that every step keeps -/

/-- Whenever parameters are installed, B lies within [F, C], the remaining budget within 0 and B, and the counts of the
two modes stay below their limits (R149, R151, R154 to R157, R160). -/
def Obligations.EveryStepKeepsThePaceLaw : Prop :=
  ∀ s t : State, PaceLaw s.part → step s = .next t → PaceLaw t.part

/-- One entry at most for a stripe, every entry well held, and nobody on the global wait list while an entry is free
(R82 to R88). -/
def Obligations.EveryStepKeepsTheLockLaw : Prop :=
  ∀ s t : State, LockLaw s.part → step s = .next t → LockLaw t.part

/-- On each lane the ISSUED tags never exceed the lane depth limit (R67). -/
def Obligations.EveryStepKeepsTheTagLaw : Prop :=
  ∀ s t : State, TagLaw s.part → step s = .next t → TagLaw t.part

/-- While the array is not FAILED, at most one member is TARGET and the ABSENT and TARGET members number at most two; and
the counters of the Member Table stay in their ranges (R9, R15). -/
def Obligations.EveryStepKeepsTheMemberLaws : Prop :=
  ∀ s t : State, step s = .next t →
    (MemberLaw s.part → MemberLaw t.part) ∧ (CounterLaw s.part → CounterLaw t.part)

/-- Staging entries holding findings plus staging reservations never exceed 8 (R133); the Retry List stays within its 32
places and its extension's capacity (R124, R126, R129). -/
def Obligations.EveryStepKeepsTheStagingAndRetryLaws : Prop :=
  ∀ s t : State, step s = .next t →
    (StagingLaw s.part → StagingLaw t.part) ∧ (RetryLaw s.part → RetryLaw t.part)

/-- The attention output follows its mode (R200), every status-page word carries its latest value or is on its way to
while the engine is BOUND or in UNBINDING before its last stretch (R185, R194), a fetched record waits only for a free entry
or for a BARRIER (R190), and the touched rows that an extent order has not yet taken, and the rows of its band, stand in
increasing order (R165, R167). That a CLEAR which takes the sweep out of rest ends the last stretch, and lets the words be
written again, is the model's reading (log 39). -/
def Obligations.EveryStepKeepsTheFollowingLaws : Prop :=
  ∀ s t : State, step s = .next t →
    (AttentionLaw s.part → AttentionLaw t.part) ∧ (StatusLaw s.part → StatusLaw t.part) ∧
      (DispatchLaw s.part → DispatchLaw t.part) ∧ (BandLaw s.part → BandLaw t.part)

/-- What a command not named by `touches` leaves alone: the register window, the engine's state, the findings log's place,
the alert levels, mask and mode, the checkpoint slots, the installed profile, every lane's tags, and every member's
counters (R5, R9, R67, R135, R142, R182, R195, R198). -/
def Obligations.ACommandChangesOnlyWhatItTouches : Prop :=
  ∀ (c : Instr) (s t : State), exec c s = .next t → .reset ∉ touches c →
    (.regs ∉ touches c → t.part.regs = s.part.regs) ∧
    (.engine ∉ touches c → t.part.engine.state = s.part.engine.state) ∧
    (.log ∉ touches c → t.part.findings.area = s.part.findings.area ∧
      t.part.findings.writeIndex = s.part.findings.writeIndex ∧ t.part.findings.sequence = s.part.findings.sequence) ∧
    (.alerts ∉ touches c → t.part.alerts.levels = s.part.alerts.levels ∧ t.part.alerts.mask = s.part.alerts.mask ∧
      t.part.alerts.pulseMode = s.part.alerts.pulseMode) ∧
    (.slots ∉ touches c → t.part.store.slots = s.part.store.slots) ∧
    (.profile ∉ touches c → t.part.geometry.profile = s.part.geometry.profile) ∧
    (.tags ∉ touches c → ∀ l, (t.part.lane l).tags = (s.part.lane l).tags) ∧
    (.counters ∉ touches c → .profile ∉ touches c → ∀ slot,
      ((t.part.member slot).medium, (t.part.member slot).timeouts, (t.part.member slot).trailers,
          (t.part.member slot).consecutive) =
        ((s.part.member slot).medium, (s.part.member slot).timeouts, (s.part.member slot).trailers,
          (s.part.member slot).consecutive))

/-! ### Arithmetic -/

/-- R7 and R8 agree: an array block address gives a stripe, data index and row within the array that give it back, the
role of its slot is its data index, and each slot of a stripe has exactly one role. -/
def Obligations.AddressMappingAndRolesAgree : Prop :=
  ∀ g : Profile, 6 ≤ g.m → 0 < g.k →
    (∀ b, b < g.arrayBlocks →
      g.stripeOf b < g.stripes ∧ g.dataIndexOf b < g.n ∧ g.rowOf b < g.k ∧
        g.blockAt (g.stripeOf b) (g.dataIndexOf b) (g.rowOf b) = b) ∧
    (∀ s i, i < g.n → g.dataSlot s i < g.m ∧ g.role s (g.dataSlot s i) = .data i) ∧
    (∀ s, g.role s (g.pSlot s) = .p ∧ g.role s (g.qSlot s) = .q) ∧
    (∀ s t, t < g.m →
      t = g.pSlot s ∨ t = g.qSlot s ∨ ∃ i, i < g.n ∧ g.dataSlot s i = t)

/-- Multiplication is associative, commutative and distributive over ⊕, with identity 0x01 and products with 0x00 zero; by
g = 0x02 it shifts left and folds 0x11D in, by the inverse of g it shifts right. The powers g^0 to g^254 are the nonzero
elements, each once, and g^255 is 0x01; every nonzero element has one inverse, that of g^x being g^(255 − x) (R32). The two
tables, constants that nothing writes, hold the powers and the exponents; the products, inverses and quotients formed
through them are those of the field; no sum of two different powers is zero, so nothing is divided by zero; and the
coefficients of Q are those listed (R33). -/
def Obligations.TheTablesGiveTheFieldProduct : Prop :=
  (∀ a b c : Byte, gfMul (gfMul a b) c = gfMul a (gfMul b c) ∧ gfMul a b = gfMul b a ∧
    gfMul a (b ^^^ c) = gfMul a b ^^^ gfMul a c ∧ gfMul 1 a = a ∧ gfMul 0 a = 0) ∧
  (∀ a : Byte,
    (gfMul 2 a).toNat = (if 2 * a.toNat ≤ 0xFF then 2 * a.toNat else (2 * a.toNat) ^^^ 0x11D) ∧
      (gfMul (gfInv 2) a).toNat = (if a.toNat % 2 = 0 then a.toNat / 2 else (a.toNat ^^^ 0x11D) / 2)) ∧
  (gfPow 0 = 1 ∧ (∀ i, gfPow (i + 1) = gfMul 2 (gfPow i)) ∧ gfPow 255 = 1 ∧ ((List.range 255).map gfPow).Nodup ∧
    (∀ a : Byte, a ≠ 0 ↔ ∃ x, x < 255 ∧ gfPow x = a) ∧
    (∀ a : Byte, a ≠ 0 → ∃ b, gfMul a b = 1 ∧ ∀ c, gfMul a c = 1 → c = b) ∧
    ∀ x, x ≤ 255 → gfMul (gfPow x) (gfPow (255 - x)) = 1) ∧
  (antilogTable.length = 256 ∧ antilog 255 = 1 ∧ (∀ i, i < 255 → antilog i = gfPow i ∧ logOf (gfPow i) = i) ∧
    ∀ a : Byte, a ≠ 0 → logOf a < 255 ∧ gfPow (logOf a) = a) ∧
  (∀ a b : Byte, gfMulTable a b = gfMul a b ∧ (a = 0 ∨ b = 0 → gfMulTable a b = 0) ∧
    (a ≠ 0 → b ≠ 0 → gfMulTable a b = antilog ((logOf a + logOf b) % 255)) ∧
    (b ≠ 0 → gfInv b = antilog ((255 - logOf b) % 255) ∧ gfMul b (gfInv b) = 1 ∧
      gfMul (gfMulTable a (gfInv b)) b = a)) ∧
  (∀ x y, x < 255 → y < 255 → x ≠ y → gfPow x ^^^ gfPow y ≠ 0) ∧
    (List.range 22).map gfPow =
      [0x01, 0x02, 0x04, 0x08, 0x10, 0x20, 0x40, 0x80, 0x1D, 0x3A, 0x74,
       0xE8, 0xCD, 0x87, 0x13, 0x26, 0x4C, 0x98, 0x2D, 0x5A, 0xB4, 0x75]

/-- From a row whose usable blocks are right, with one or two slots erased, reconstruction gives the whole row back; with
three or more it gives none (R34 to R42). -/
def Obligations.ReconstructionRestoresTheRow : Prop :=
  ∀ (data : List Block) (v : RowView), data.length ≤ 22 → (∀ b ∈ data, b.length = 4096) →
    v.data.length = data.length → (∀ (i : Nat) (b : Block), v.data[i]? = some (some b) → data[i]? = some b) →
    (∀ b, v.p = some b → b = parityP data) → (∀ b, v.q = some b → b = parityQ data) →
    (v.erasures ≤ 2 → reconstructRow v = some { data, p := parityP data, q := parityQ data }) ∧
      (3 ≤ v.erasures → reconstructRow v = none)

/-- The parity of a delta job is the parity of the row as it stands after the write (R34, R43). -/
def Obligations.DeltaParityIsTheNewRowsParity : Prop :=
  ∀ (old new : List Block) (written : List Nat), old.length = new.length → (∀ b ∈ old, b.length = 4096) →
    (∀ b ∈ new, b.length = 4096) → written.Nodup → (∀ i ∈ written, i < old.length) →
    (∀ i, i ∉ written → old[i]? = new[i]?) →
    let terms := written.map fun i => { index := i, old := old.getD i [], new := new.getD i [] }
    deltaP (parityP old) terms = parityP new ∧ deltaQ (parityQ old) terms = parityQ new

/-- A block with its fresh trailer passes the check where it belongs and fails it as TRAILER under another slot or home
stripe; a poison block is POISON anywhere (R18, R20 to R23). -/
def Obligations.FreshTrailersPassOnlyWhereTheyBelong : Prop :=
  ∀ (stripe slot : Nat) (block : Block), slot < 24 → block.length = 4096 →
    checkTrailer stripe slot block (freshTrailer stripe slot block) = .good ∧
      (∀ stripe' slot', slot' ≠ slot ∨ homeStripe stripe' ≠ homeStripe stripe →
        checkTrailer stripe' slot' block (freshTrailer stripe slot block) = .erased .trailer) ∧
      ∀ stripe' slot', checkTrailer stripe' slot' zeroBlock (poisonTrailer stripe) = .erased .poison

/-- Row classes by the erasures and their kinds; a sweep row is never CLEAN, on the last permitted attempt never
DEFERRABLE, and a host order's row never DEFERRABLE (R28, R29). A sweep band whose READs have all completed classifies its
rows in order: each notes its involved slots; a RECOVERABLE one hands over its job, a DEFERRABLE one gives its context its
reason, TIMEOUT before NOT_READY, a LOST one has its poison block placed; with no job the writes follow (R30, R105; an upset
may strike the placed block within the step, log 12). -/
def Obligations.RowClassesFollowTheErasures : Prop :=
  (∀ (last : Bool) (results : List BlockResult),
    let kinds := erasureKinds results
    (classifyRow last results = .clean ↔ ∀ r ∈ results, r = .good) ∧
      (classifyRow last results = .recoverable ↔ kinds.length = 1 ∨ kinds.length = 2) ∧
      (∀ reason, classifyRow last results = .deferrable reason ↔
        last = false ∧ 3 ≤ kinds.length ∧ (.timeout ∈ kinds ∨ .notReady ∈ kinds) ∧
          (reason = .timeout ↔ .timeout ∈ kinds)) ∧
      (classifyRow last results = .lost ↔
        3 ≤ kinds.length ∧ (last = true ∨ ∀ k ∈ kinds, k ≠ .timeout ∧ k ≠ .notReady))) ∧
    (∀ (b : SweepBand) (g : Profile) (attempt row : Nat), b.target < g.m → b.rowClass g attempt row ≠ .clean) ∧
    (∀ (b : SweepBand) (g : Profile) (row : Nat) (reason : Reason),
      b.rowClass g g.retryPasses row ≠ .deferrable reason) ∧
    (∀ (w : RowWork) (g : Profile) (p : Part) (reason : Reason), w.rowClass g p ≠ .deferrable reason) ∧
    (∀ (place : Nat) (g : Profile) (c d : Context) (b x : SweepBand) (upsets : List Nat) (p : Part) (row : Nat),
      p.context? place = some d → d.band = some x →
      let q := classifySweepRow place g c b upsets p row
      let mends := mendable g p b row
      ∃ (erased : List Nat) (involved : BitVec 24),
        (∀ s, s ∈ erased ↔ s < g.m ∧ b.result row s ≠ .good) ∧
        (∀ s, s ∈ mends ↔ s ∈ erased ∧ s ≠ b.target ∧ g.mend = true ∧ (p.member s).state ≠ .absent ∧
          (b.result row s = .erased .medium ∨ b.result row s = .erased .trailer ∨ b.result row s = .erased .poison)) ∧
        (∀ s, s < 24 → (involved.getLsbD s = true ↔ d.involved.getLsbD s = true ∨ (s ∈ erased ∧ s ≠ b.target))) ∧
        (b.rowClass g c.attempt row = .recoverable → q.buffer = p.buffer ∧
          q.context? place = some { d with
            involved,
            band := some { x with jobs := x.jobs ++ [{ row, erased, wanted := b.target :: mends }],
                                  writeRows := x.writeRows ++ [row],
                                  mends := x.mends ++ mends.map (fun s => (row, s)) } }) ∧
        (∀ reason, b.rowClass g c.attempt row = .deferrable reason → q.buffer = p.buffer ∧
          q.context? place = some { d with
            involved, deferral := if d.deferral = some .timeout then some .timeout else some reason }) ∧
        (b.rowClass g c.attempt row = .lost →
          q.context? place = some { d with
            involved, lostRows := setBit d.lostRows row,
            band := some { x with writeRows := x.writeRows ++ [row] } } ∧
          ∀ f, frameAt b.places row b.target .new = some f → f < p.buffer.frames.length → (p.frame f).state ≠ .unfit →
            q.frame f = { p.frame f with
              state := .placed, block := zeroBlock, trailer := poisonTrailer c.stripe,
              upset := upsets.contains f })) ∧
    ∀ (place : Nat) (g : Profile) (c : Context) (b : SweepBand) (upsets : List Nat) (p : Part),
      p.geometry.profile = some g → p.context? place = some c → c.band = some b → b.stage = .reading →
      p.outstanding (.sweepBand place) = [] →
      let q := ((List.range b.count).map (· + b.row0)).foldl (classifySweepRow place g c b upsets)
        (p.modSweepBand place fun x => { x with stage := .rebuilding })
      advanceSweepBand upsets p place = endSweepBand place
        (if (q.sweepBand? place).map (·.jobs) = some [] then writeSweepBand place q else q)

/-- The top cause is pending, of the highest level, and among those of that level of the highest priority; with no cause
pending it is none (R199). -/
def Obligations.TheTopCauseIsTheHighestPending : Prop :=
  ∀ a : AlertUnit,
    (a.topCode = 0 ↔ a.pending = 0) ∧
      ∀ b, a.topCode = b + 1 → b < 12 ∧ a.pending.getLsbD b = true ∧
        ∀ i, i < 12 → a.pending.getLsbD i = true → a.level i ≤ a.level b ∧ (a.level i = a.level b → b ≤ i)

/-- The resume point is no greater than W, nor than the stripe of any on-chip entry, nor than spilled low while the
extension is not empty; every stripe below it is outside the Retry List; and a write that begins records it (R130,
R141). -/
def Obligations.TheResumePointCoversTheRetryList : Prop :=
  ∀ p : Part,
    p.resumePoint ≤ p.sweep.watermark ∧ (∀ x ∈ p.retry.onChip, p.resumePoint ≤ x.stripe) ∧
      (∀ low high, p.retry.extensionInUse = true → p.retry.range = some (low, high) → p.resumePoint ≤ low) ∧
      (∀ s, s < p.resumePoint → p.retry.holdsStripe s = false) ∧
      (p.retry.isEmpty = true → p.retry.joinWriting = false → p.resumePoint = p.sweep.watermark) ∧
      ∀ w, p.store.write = none → (beginStoreWrite p).store.write = some w → w.resume = p.resumePoint

/-- A checkpoint write that has taken all its byte writes leaves a valid record of its own generation, resume point and
state, the profile's geometry and the target, and that slot is then the current one; no byte write of it, at any moment,
reaches the other slot (R139, R142, R208). -/
def Obligations.ACompletedRecordIsTheCurrentOne : Prop :=
  ∀ (p : Part) (g : Profile), p.geometry.profile = some g → recordedState p.sweep.state ≠ none → p.store.write = none →
    p.store.slots.length = 2 → (∀ b ∈ p.store.slots, b.length = 256) →
    ∃ w, (beginStoreWrite p).store.write = some w ∧
      (let c := (beginStoreWrite p).store.takeTo w.writes.length
       c.current = some w.slot ∧ slotHead (c.slot w.slot) = w.generation ∧
         slotResume (c.slot w.slot) = w.resume % 2 ^ 32 ∧ some (slotState (c.slot w.slot)) = recordedState p.sweep.state ∧
         slotSignature (c.slot w.slot) = g.signature % 2 ^ 32 ∧ slotM (c.slot w.slot) = g.m % 256 ∧
         slotK (c.slot w.slot) = g.k % 256 ∧ slotStripes (c.slot w.slot) = g.stripes % 2 ^ 32 ∧
         slotTarget (c.slot w.slot) = p.store.target.getD 0 % 256) ∧
      ∀ n, ((beginStoreWrite p).store.takeTo n).slot (1 - w.slot) = p.store.slot (1 - w.slot)

/-- Which class issues: the only one waiting, or in a contested issue the one the arbiter mode names; a contested issue
records its winner, another leaves it as it was, and installation sets it to SWEEP (R66). -/
def Obligations.TheArbiterNamesTheIssuingClass : Prop :=
  ∀ (l : Lane) (mode : ArbiterMode) (c : ArrayCondition),
    (l.sweepQueue = [] → l.orderQueue = [] → l.issuer mode c = none) ∧
      (l.sweepQueue ≠ [] → l.orderQueue = [] → l.issuer mode c = some .sweep) ∧
      (l.sweepQueue = [] → l.orderQueue ≠ [] → l.issuer mode c = some .order) ∧
      (l.sweepQueue ≠ [] → l.orderQueue ≠ [] →
        l.issuer .orderFirst c = some .order ∧ l.issuer .sweepFirst c = some .sweep ∧
          l.issuer .alternate c = some (if l.lastWinner = .sweep then .order else .sweep) ∧
          l.issuer .byUrgency c = some (if c = .double then .sweep else .order)) ∧
      (∀ k, (l.take k).lastWinner = if l.sweepQueue ≠ [] ∧ l.orderQueue ≠ [] then k else l.lastWinner) ∧
      ∀ st, (l.install st).lastWinner = .sweep

/-- Blocks placed with fresh trailers stand in the frames of their slots, PLACED and with their parity afresh; no other
frame changes (R46, R50, R56). -/
def Obligations.PlacedBlocksStandInTheirFrames : Prop :=
  ∀ (v : BandView) (row : Nat) (part : FramePart) (blocks : List (Nat × Block)) (p : Part),
    ((blocks.filterMap fun x => frameAt v.band.places row x.1 part)).Nodup →
      (∀ s b f, (s, b) ∈ blocks → frameAt v.band.places row s part = some f → f < p.buffer.frames.length →
        (p.frame f).state ≠ .unfit →
        (placeOutputs v row part blocks p).frame f =
          { p.frame f with state := .placed, block := b, trailer := freshTrailer v.stripe s b, upset := false }) ∧
      ∀ f, f ∉ (blocks.filterMap fun x => frameAt v.band.places row x.1 part) →
        (placeOutputs v row part blocks p).frame f = p.frame f

/-! ### The register window -/

/-- ANCHOR takes a write while the engine is UNBOUND and refuses it in any other state; LOG_TAKEN is held while UNBOUND or
BINDING, and otherwise taken mod N, which ends an episode unless the log is still full; ALERT takes the mask level and the
mode and nothing else, whatever the other bits hold (log 62), and the output follows at once (R136, R195, R199, R200). -/
def Obligations.RegisterValuesAreTaken : Prop :=
  (∀ (v : Word) (s : State),
     (∃ t, exec (.anchorWrite v) s = .next t ∧ SameBut [.regs] [] s t ∧
       t.part.regs = if s.part.engine.state = .unbound then { s.part.regs with anchor := v }
         else { s.part.regs with refused := true }) ∧
     (s.part.engine.state = .unbound ∨ s.part.engine.state = .binding →
       ∃ t, exec (.logTakenWrite v) s = .next t ∧ SameBut [.regs] [] s t ∧
         t.part.regs = { s.part.regs with logTaken := v }) ∧
     ∀ a n, s.part.engine.state = .bound ∨ s.part.engine.state = .unbinding → s.part.findings.area = some (a, n) →
       ∃ t, exec (.logTakenWrite v) s = .next t ∧ SameBut [.regs, .findings, .alerts] [] s t ∧
         t.part.regs = { s.part.regs with logTaken := BitVec.ofNat 64 (v.toNat % n) } ∧
         t.part.findings.staged = s.part.findings.staged ∧
         t.part.findings.writeIndex = s.part.findings.writeIndex ∧
         t.part.findings.sequence = s.part.findings.sequence ∧
         (t.part.logFull = false → t.part.findings.episode = false)) ∧
  (∀ (v : Word) (s : State), ∃ t, exec (.alertWrite v) s = .next t ∧ SameBut [.alerts] [] s t ∧
     t.part.alerts.mask = min 3 (v.toNat / 2 ^ 24 % 16) ∧
     (t.part.alerts.pulseMode = true ↔ v.toNat / 2 ^ 28 % 2 = 1) ∧
     t.part.alerts.pending = s.part.alerts.pending ∧ t.part.alerts.latched = s.part.alerts.latched ∧
     t.part.alerts.levels = s.part.alerts.levels ∧ t.part.alerts.pulses = s.part.alerts.pulses ∧ AttentionLaw t.part)

/-- A whole read of ALERT returns the pending set, the top cause, the mask and the mode, and clears what it returns; a
narrower one clears the causes in the bytes it covers (R195, R199). A whole read of CONTROL returns the engine state, the
latched conditions and the two flags, and every read clears the flags (R196; of narrow reads, log 27). -/
def Obligations.ReadsReturnAndClear : Prop :=
  ∀ s : State,
    (s.part.alerts.mask ≤ 3 →
      ∃ t, exec (.alertRead 0 8) s = .next t ∧ SameBut [.regs, .alerts] [] s t ∧
        t.part.regs = { s.part.regs with readData := t.part.regs.readData } ∧
        t.part.regs.readData.toNat % 4096 = s.part.alerts.pending.toNat ∧
        t.part.regs.readData.toNat / 2 ^ 16 % 16 = s.part.alerts.topCode ∧
        t.part.regs.readData.toNat / 2 ^ 24 % 16 = s.part.alerts.mask ∧
        (t.part.regs.readData.toNat / 2 ^ 28 % 2 = 1 ↔ s.part.alerts.pulseMode = true) ∧
        t.part.alerts.pending = 0) ∧
    (∀ first count, 0 < count → first + count ≤ 8 →
      ∃ t, exec (.alertRead first count) s = .next t ∧ SameBut [.regs, .alerts] [] s t ∧
        t.part.alerts.mask = s.part.alerts.mask ∧ t.part.alerts.levels = s.part.alerts.levels ∧
        t.part.alerts.pulseMode = s.part.alerts.pulseMode ∧ t.part.alerts.latched = s.part.alerts.latched ∧
        ∀ i, i < 12 → (t.part.alerts.pending.getLsbD i = true ↔
          s.part.alerts.pending.getLsbD i = true ∧ ¬(8 * first ≤ i ∧ i < 8 * (first + count)))) ∧
    (∃ t, exec (.controlRead 0 8) s = .next t ∧
      t.part.regs.readData.toNat % 256 = s.part.engine.state.code ∧
      t.part.regs.readData.toNat / 2 ^ 8 % 64 = s.part.alerts.latched.toNat ∧
      (t.part.regs.readData.toNat / 2 ^ 16 % 2 = 1 ↔ s.part.regs.bindFailed = true) ∧
      (t.part.regs.readData.toNat / 2 ^ 17 % 2 = 1 ↔ s.part.regs.refused = true)) ∧
    ∀ first count, 0 < count → first + count ≤ 8 →
      ∃ t, exec (.controlRead first count) s = .next t ∧ SameBut [.regs] [] s t ∧
        t.part.regs = { s.part.regs with readData := t.part.regs.readData, bindFailed := false, refused := false }

/-- Only a whole word is written: a narrower write is ignored and sets REFUSED. A whole word has its register's effect, and
CONTROL its command's; a value that names no command sets REFUSED. A CLEAR of several conditions clears each named one that
is latched, with its effects, and sets REFUSED when one of them is not (R119, R195 to R197, R209; a byte count for ENGINE
RESET, log 24; the order of the effects, log 20; bits of CONTROL and ALERT without a field, log 62; a halted sweep during
a load, log 52). -/
def Obligations.ARegisterWriteHasItsRegistersEffect : Prop :=
  ∀ (v : Word) (s : State),
    (∀ offset width, width ≠ 8 → ∃ t, exec (.registerWrite offset width v) s = .next t ∧ SameBut [.regs] [] s t ∧
      t.part.regs = { s.part.regs with refused := true }) ∧
    (s.part.engine.state = .unbound → ∃ t, exec (.registerWrite 0x00 8 v) s = .next t ∧ SameBut [.regs] [] s t ∧
      t.part.regs = { s.part.regs with anchor := v }) ∧
    exec (.registerWrite 0x00 8 v) s = exec (.anchorWrite v) s ∧
    exec (.registerWrite 0x08 8 v) s = exec (.nudge v) s ∧
    exec (.registerWrite 0x10 8 v) s = exec (.logTakenWrite v) s ∧
    exec (.registerWrite 0x18 8 v) s = exec (.alertWrite v) s ∧
    (let u : State := { s with part := s.part.spend }
     (v.toNat % 256 = 1 → exec (.registerWrite 0x20 8 v) s = exec .bind u) ∧
       (v.toNat % 256 = 2 → exec (.registerWrite 0x20 8 v) s = exec .unbind u) ∧
       (∀ c : Condition, v.toNat % 256 = 3 → v.toNat / 256 % 64 = 2 ^ c.bit →
         exec (.registerWrite 0x20 8 v) s = exec (clearCommand c) u) ∧
       (v.toNat % 256 = 4 → ∃ n, exec (.registerWrite 0x20 8 v) s = exec (.engineReset n) u)) ∧
    (v.toNat % 256 = 3 → v.toNat / 256 % 64 ≠ 0 → s.part.retry.joins = [] →
      let named := fun c : Condition => v.toNat / 2 ^ (8 + c.bit) % 2 = 1
      let cleared := fun c : Condition => named c ∧ s.part.isLatched c = true
      ∃ t, exec (.registerWrite 0x20 8 v) s = .next t ∧
        (∀ c, t.part.isLatched c = true ↔ s.part.isLatched c = true ∧ ¬named c) ∧
        ((∀ c, named c → s.part.isLatched c = true) → t.part.regs = s.part.regs) ∧
        ((∃ c, named c ∧ s.part.isLatched c = false) → t.part.regs = { s.part.regs with refused := true }) ∧
        (∀ c h, c.haltCause = some h →
          (t.part.sweep.haltSet.getLsbD h.bit = true ↔ s.part.sweep.haltSet.getLsbD h.bit = true ∧ ¬cleared c)) ∧
        (s.part.sweep.state ≠ .halted ∨ t.part.sweep.haltSet ≠ 0 → t.part.sweep.state = s.part.sweep.state) ∧
        ((∃ c, c.haltCause ≠ none ∧ cleared c) → s.part.sweep.state = .halted → t.part.sweep.haltSet = 0 →
          (s.part.targetSlot = none ∨ s.part.condition = .failed → t.part.sweep.state = .idle) ∧
          (s.part.targetSlot ≠ none → s.part.condition ≠ .failed → s.part.loading = false →
            s.part.sweep.pass = .main → s.part.sweep.watermark < s.part.stripeCount →
            t.part.sweep.state = if s.part.engine.state = .unbinding then .pausing else .sweeping)) ∧
        (cleared .chainFault → s.part.engine.state = .bound → t.part.intake.resumeRead = .live) ∧
        (cleared .checkpointFault → s.part.store.again = true → s.part.geometry.profile ≠ none →
          recordedState t.part.sweep.state ≠ none → t.part.store.write ≠ none)) ∧
    (v.toNat % 256 = 0 ∨ 4 < v.toNat % 256 ∨ (v.toNat % 256 = 3 ∧ v.toNat / 256 % 64 = 0) →
      ∃ t, exec (.registerWrite 0x20 8 v) s = .next t ∧ SameBut [.regs] [] s t ∧
        t.part.regs = { s.part.regs with refused := true })

/-- BIND begins in UNBOUND with ANCHOR 256-byte aligned, and fails at once when it is misaligned; UNBIND begins in BOUND,
stops the intake and sends a sweep in its pass to PAUSING; in other states both are refused. UNBINDING ends when its last
stretch has begun, no host DMA is in flight and the sweep is at rest; while one of these fails the engine stays UNBINDING,
the last stretch standing exactly with the Order Table empty and the sweep at rest, which each command judges anew (R116,
R182, R184, R185; this judging is the model's reading, log 39). -/
def Obligations.BindAndUnbindMoveTheEngine : Prop :=
  ∀ s : State,
    (s.part.engine.state = .unbound → s.part.regs.anchor.toNat % 256 = 0 →
      ∃ t, exec .bind s = .next t ∧ SameBut [.engine] [] s t ∧ t.part.engine.state = .binding) ∧
    (s.part.engine.state = .unbound → s.part.regs.anchor.toNat % 256 ≠ 0 →
      ∃ t, exec .bind s = .next t ∧ SameBut [.regs] [] s t ∧ t.part.regs = { s.part.regs with bindFailed := true }) ∧
    (s.part.engine.state ≠ .unbound →
      ∃ t, exec .bind s = .next t ∧ SameBut [.regs] [] s t ∧ t.part.regs = { s.part.regs with refused := true }) ∧
    (s.part.engine.state = .bound →
      ∃ t, exec .unbind s = .next t ∧ SameBut [.engine, .chain, .sweep, .pace] [] s t ∧
        t.part.engine.state = .unbinding ∧ t.part.intake.state = .stopped ∧ t.part.intake.holding = [] ∧
        t.part.intake.latch = false ∧
        (s.part.sweep.inPass = true → t.part.sweep = { s.part.sweep with state := .pausing } ∧ t.part.pace.timer = none) ∧
        (s.part.sweep.inPass = false → t.part.sweep = s.part.sweep ∧ t.part.pace = s.part.pace)) ∧
    (s.part.engine.state ≠ .bound →
      ∃ t, exec .unbind s = .next t ∧ SameBut [.regs] [] s t ∧ t.part.regs = { s.part.regs with refused := true }) ∧
    (let quiet := s.part.dmaQuiet = true
     let ends := s.part.engine.drained = true ∧ quiet ∧ s.part.sweep.atRest = true
     (quiet ↔ s.part.intake.fetch = .none ∧ s.part.intake.reread = .none ∧ s.part.intake.resumeRead = .none ∧
       s.part.findings.writer = .idle ∧ s.part.retry.busy = .idle ∧ (∀ w ∈ s.part.status, w.writing = none) ∧
       s.part.entriesInUse = []) ∧
     (s.part.engine.state = .unbinding → ends →
       ∃ t, exec .unbindDrainEnd s = .next t ∧ SameBut [.engine] [] s t ∧ t.part.engine.state = .unbound) ∧
     (s.part.engine.state = .unbinding → ¬ends →
       ∃ t, exec .unbindDrainEnd s = .next t ∧ SameBut [] [] s t ∧ t.part.engine.state = .unbinding ∧
         (t.part.engine.drained = true ↔ t.part.entriesInUse = [] ∧ t.part.sweep.atRest = true)) ∧
     (s.part.engine.state ≠ .unbinding →
       ∃ t, exec .unbindDrainEnd s = .next t ∧ SameBut [] [] s t ∧ t.part.engine.state = s.part.engine.state))

/-- The anchor read ends a BIND: with a block that passes, the engine is BOUND, the log starts afresh, the levels,
depth and pages are the block's, the retry area is installed unless the extension is in use, and the intake follows
the first record, or is FAULTED while CHAIN_FAULT is latched, and every status-page word is written; with one that
fails, or a fault, the engine is UNBOUND and BIND_FAILED set (R131, R136, R183, R184, R194). That the faulting address
of a bad first record is that of the anchor's field is the model's choice (log 29). -/
def Obligations.TheAnchorReadEndsABind : Prop :=
  ∀ s : State, s.part.engine.state = .binding →
    (∀ b, anchorOk (anchorOf b) = true →
      ∃ t, exec (.anchorRead (some b)) s = .next t ∧ t.part.engine.state = .bound ∧
        t.part.regs = { s.part.regs with logTaken := 0 } ∧
        t.part.findings.area = some (wordField b 16, leField b 24 4) ∧ t.part.findings.writeIndex = 0 ∧
        t.part.findings.sequence = 1 ∧
        t.part.alerts.levels = (List.range 9).map (fun i => min 2 (leField b (56 + i) 1)) ∧
        t.part.intake.depth = some (max 1 (min 4 (leField b 28 1))) ∧
        t.part.intake.statusPage = some (wordField b 48) ∧
        (s.part.retry.extensionInUse = false → s.part.retry.refilling = false →
          t.part.retry.address = wordField b 32 ∧ t.part.retry.capacity = leField b 40 4 ∧ t.part.retry.count = 0) ∧
        (s.part.retry.extensionInUse = true →
          t.part.retry.address = s.part.retry.address ∧ t.part.retry.capacity = s.part.retry.capacity) ∧
        (s.part.isLatched .chainFault = false → chainAddressOk (wordField b 0) = true →
          t.part.intake.state = .following ∧ t.part.intake.fetchPosition = some (wordField b 0)) ∧
        (s.part.isLatched .chainFault = false → chainAddressOk (wordField b 0) = false →
          Faulted t s.part.regs.anchor) ∧
        (s.part.isLatched .chainFault = true →
          t.part.intake.state = .faulted ∧ t.part.intake.fetchPosition = none ∧ t.part.isLatched .chainFault = true) ∧
        ∀ i, i < s.part.status.length →
          let now := t.part.statusValue i
          t.part.status[i]? =
            some { value := now, waiting := false,
                   writing := some { address := wordField b 48 + BitVec.ofNat 64 (8 * i), bytes := leBytes 8 now.toNat } }) ∧
    (∀ b, anchorOk (anchorOf b) = false →
      ∃ t, exec (.anchorRead (some b)) s = .next t ∧ SameBut [.engine, .regs] [] s t ∧
        t.part.engine.state = .unbound ∧ t.part.regs = { s.part.regs with bindFailed := true }) ∧
    ∃ t, exec (.anchorRead none) s = .next t ∧ SameBut [.engine, .regs] [] s t ∧
      t.part.engine.state = .unbound ∧ t.part.regs = { s.part.regs with bindFailed := true }

/-- CLEAR of a condition that is not latched changes nothing and sets REFUSED. CLEAR of a latched one unlatches it alone
and takes its cause from the halt set; HALTED is left when that empties the halt set, to the pass with a TARGET in an array
that is not FAILED and to IDLE otherwise; a cleared CHAIN_FAULT reads the chain resume address, after CHECKPOINT_FAULT a
waiting checkpoint begins, and after RETRY_OVERFLOW a waiting join (R119, R126, R145, R189, R197; during a load the sweep
stays HALTED, log 52; that the join begins before a refill that could begin as well is the model's choice, log 25). -/
def Obligations.ClearTakesBackItsConditionAlone : Prop :=
  ∀ (c : Condition) (s : State),
    (s.part.isLatched c = false →
      ∃ t, exec (clearCommand c) s = .next t ∧ SameBut [.regs] [] s t ∧
        t.part.regs = { s.part.regs with refused := true }) ∧
    (s.part.isLatched c = true →
      ∃ t u, exec (clearCommand c) s = .next t ∧ t.part = finish (settleWork u) ∧ u.regs = s.part.regs ∧
        u.alerts.latched = clearBit s.part.alerts.latched c.bit ∧
        (∀ h, c.haltCause = some h → u.sweep.haltSet = clearBit s.part.sweep.haltSet h.bit) ∧
        (c.haltCause = none → u.sweep.haltSet = s.part.sweep.haltSet) ∧
        (c.haltCause = none ∨ s.part.sweep.state ≠ .halted ∨ u.sweep.haltSet ≠ 0 →
          u.sweep.state = s.part.sweep.state) ∧
        (c.haltCause ≠ none → s.part.sweep.state = .halted → u.sweep.haltSet = 0 →
          (s.part.targetSlot = none ∨ s.part.condition = .failed → u.sweep.state = .idle) ∧
          (s.part.targetSlot ≠ none → s.part.condition ≠ .failed →
            (s.part.loading = true → u.sweep.state = .halted) ∧
            (s.part.loading = false → s.part.sweep.pass = .main → s.part.sweep.watermark < s.part.stripeCount →
              u.sweep.state = if s.part.engine.state = .unbinding then .pausing else .sweeping) ∧
            (s.part.loading = false → s.part.sweep.pass = .retry → s.part.retry.isEmpty = false →
              u.sweep.state = if s.part.engine.state = .unbinding then .pausing else .retrying))) ∧
        (u.sweep.state ≠ .idle → u.retry = s.part.retry) ∧
        (s.part.retry.joins = [] →
          t.part.regs = s.part.regs ∧ t.part.alerts.latched = u.alerts.latched ∧
            t.part.sweep.haltSet = u.sweep.haltSet ∧ t.part.sweep.state = u.sweep.state) ∧
        (c = .chainFault → s.part.engine.state = .bound → t.part.intake.resumeRead = .live) ∧
        (c = .checkpointFault → s.part.store.again = true → s.part.geometry.profile ≠ none →
          recordedState s.part.sweep.state ≠ none → u.store.write ≠ none ∧ u.store.again = false ∧
            (s.part.retry.joins = [] → t.part.store.write ≠ none ∧ t.part.store.again = false)) ∧
        ∀ j rest, c = .retryOverflow → s.part.retry.joins = j :: rest → s.part.retry.busy = .idle →
          s.part.mayBeginDma = true → s.part.retry.count < s.part.retry.capacity → u.sweep.state ≠ .idle →
          t.part.retry.busy = .join j false ∧ t.part.retry.joins = rest)

/-- A reset of any kind, in any state, leaves every block at its reset value; an ENGINE RESET alone keeps ANCHOR. The frames
keep their bytes, and a checkpoint write in flight leaves its slot with the byte writes that had taken and the other slot
untouched (R17, R60, R81, R94, R95, R138, R146, R148, R149, R186, R201). The model's choices here: what else outlasts it
(log 13, 14), its own counter (log 9), what the frames hold at the first reset (log 11), an unmapped record's lane (log
31), four values no rule resets by name (log 51) and the sequence counter before the next BIND (log 67). -/
def Obligations.ResetsLeaveTheResetValues : Prop :=
  ∀ (c : Instr) (taken : Nat) (s : State),
    c = .engineReset taken ∨ c = .powerOnReset taken ∨ c = .hostLinkReset taken →
    ∃ t, exec c s = .next t ∧ t.pending = s.pending ∧
      t.part =
        { Part.initial with
          regs := t.part.regs, buffer := t.part.buffer, freeCount := s.part.freeCount,
          alerts := { AlertUnit.initial with pulses := s.part.alerts.pulses },
          store := { CheckpointStore.initial with slots := t.part.store.slots } } ∧
      t.part.engine.state = .unbound ∧ t.part.intake.state = .stopped ∧ (∀ e, t.part.entry? e = none) ∧
      t.part.regs.logTaken = 0 ∧ t.part.regs.bindFailed = false ∧ t.part.regs.refused = false ∧
      t.part.regs.anchor = (if c = .engineReset taken then s.part.regs.anchor else 0) ∧
      t.part.alerts.pending = 0 ∧ t.part.alerts.latched = 0 ∧ t.part.alerts.mask = 0 ∧
      t.part.alerts.pulseMode = false ∧ t.part.alerts.attention = false ∧
      t.part.geometry.profile = none ∧ (∀ i, (t.part.member i).state = .unmapped) ∧
      (∀ l, (t.part.lane l).state = .unmapped ∧ ∀ g ∈ (t.part.lane l).tags, g = .free) ∧
      (∀ x ∈ t.part.locks.entries, x = none) ∧ t.part.locks.waiting = [] ∧
      t.part.sweep.state = .idle ∧ t.part.sweep.watermark = 0 ∧ t.part.retry.onChip = [] ∧ t.part.retry.capacity = 0 ∧
      t.part.findings.staged = [] ∧ t.part.findings.sequence = 1 ∧ t.part.store.write = none ∧
      t.part.pace.installed = none ∧ t.part.pace.budget = 0 ∧ t.part.buffer.queue = [] ∧
      (∀ i, t.part.frame i = { s.part.frame i with pool := none, owner := none, state := .free }) ∧
      (s.part.store.write = none → t.part.store.slots = s.part.store.slots) ∧
      ∀ w, s.part.store.write = some w →
        (∀ i, i ≠ w.slot → t.part.store.slot i = s.part.store.slot i) ∧
          t.part.store.slot w.slot = applyWrites (s.part.store.slot w.slot) ((w.writes.take taken).drop w.taken)

/-! ### The order chain -/

/-- A nudge while PARKED rereads the link, or is kept for when the reread in flight ends; while STOPPED it does nothing. A
link of 0 leaves the intake parked, a good one is followed, and a bad one or a fault faults the chain. After CLEAR of
CHAIN_FAULT the chain goes on from the chain resume address when it is a chain address; otherwise, and after a fault, it is
faulted again at that field (R187 to R189, R205; the faulting addresses, log 29). -/
def Obligations.ParkedAndFaultedChainsGoOn : Prop :=
  (∀ s : State,
     (∀ v, ∃ t, exec (.nudge v) s = .next t ∧ SameBut [.chain] [] s t ∧
       t.part.intake.state = s.part.intake.state ∧ t.part.intake.parked = s.part.intake.parked ∧
       t.part.intake.fetchPosition = s.part.intake.fetchPosition ∧
       (t.part.intake.latch, t.part.intake.reread) =
         if s.part.intake.state = .stopped then (s.part.intake.latch, s.part.intake.reread)
         else if s.part.intake.state = .parked ∧ s.part.intake.reread = .none then (false, .live)
         else (true, s.part.intake.reread)) ∧
     (s.part.intake.state = .parked → s.part.intake.reread = .live →
       (∀ b, wordField b 0 = 0 →
         ∃ t, exec (.linkReread (some b)) s = .next t ∧ SameBut [.chain] [] s t ∧ t.part.intake.state = .parked ∧
           t.part.intake.parked = s.part.intake.parked ∧ t.part.intake.latch = false ∧
           t.part.intake.reread = if s.part.intake.latch then .live else .none) ∧
       (∀ b, wordField b 0 ≠ 0 → aligned 64 (wordField b 0) = true →
         ∃ t, exec (.linkReread (some b)) s = .next t ∧ SameBut [.chain] [] s t ∧ t.part.intake.state = .following ∧
           t.part.intake.fetchPosition = some (wordField b 0) ∧ t.part.intake.parked = none) ∧
       (∀ b, aligned 64 (wordField b 0) = false →
         ∃ t, exec (.linkReread (some b)) s = .next t ∧ SameBut [.chain, .alerts] [] s t ∧ Faulted t (wordField b 0)) ∧
       ∃ t, exec (.linkReread none) s = .next t ∧ SameBut [.chain, .alerts] [] s t ∧
         Faulted t (s.part.intake.parked.getD 0))) ∧
  (∀ s : State, s.part.intake.resumeRead = .live → s.part.intake.state = .faulted →
     (∀ b, chainAddressOk (wordField b 0) = true →
       ∃ t, exec (.chainResumeRead (some b)) s = .next t ∧ SameBut [.chain] [] s t ∧
         t.part.intake.state = .following ∧ t.part.intake.fetchPosition = some (wordField b 0)) ∧
     (∀ b, chainAddressOk (wordField b 0) = false →
       ∃ t, exec (.chainResumeRead (some b)) s = .next t ∧ SameBut [.chain, .alerts] [] s t ∧
         Faulted t (s.part.regs.anchor + 8)) ∧
     ∃ t, exec (.chainResumeRead none) s = .next t ∧ SameBut [.chain, .alerts] [] s t ∧
       Faulted t (s.part.regs.anchor + 8))

/-- A fetched record enters the holding list, and its link decides what follows: 0 parks the intake on the record, where a
latched nudge is used up at once by a reread of the link, unless a reread is still in flight (log 30); an aligned one is
followed, and the nudge latch stays; any other faults the chain, and so does a fault of the fetch (R187 to R189). -/
def Obligations.AFetchedRecordsLinkIsFollowed : Prop :=
  ∀ s : State, s.part.intake.fetch = .live → s.part.intake.state = .following →
    (∀ header scatter,
      let r := orderRecord s.part.intake.fetchAddress header scatter
      let link := recordLink header
      (link = 0 → ∃ t, exec (.recordFetch (.read header scatter)) s = .next t ∧ SameBut [.chain] [] s t ∧
        Entered r t ∧ t.part.intake.state = .parked ∧ t.part.intake.parked = some s.part.intake.fetchAddress ∧
        t.part.intake.fetchPosition = none ∧
        (t.part.intake.latch, t.part.intake.reread) =
          if s.part.intake.latch ∧ s.part.intake.reread = .none then (false, .live)
          else (s.part.intake.latch, s.part.intake.reread)) ∧
      (link ≠ 0 → aligned 64 link = true →
        ∃ t, exec (.recordFetch (.read header scatter)) s = .next t ∧ SameBut [.chain] [] s t ∧
          Entered r t ∧ t.part.intake.state = .following ∧ t.part.intake.fetchPosition = some link ∧
          t.part.intake.latch = s.part.intake.latch ∧ t.part.intake.reread = s.part.intake.reread) ∧
      (aligned 64 link = false →
        ∃ t, exec (.recordFetch (.read header scatter)) s = .next t ∧ SameBut [.chain, .alerts] [] s t ∧
          Faulted t link)) ∧
    ∃ t, exec (.recordFetch .fault) s = .next t ∧ SameBut [.chain, .alerts] [] s t ∧
      Faulted t s.part.intake.fetchAddress

/-- The completion word follows the detail words, after a fault too: an aligned word at the record's byte 0 with the status
code in bits 0 to 7 and the record's tag in bits 32 to 63. With it the entry is freed, or taken by a record that waited, and
NOTIFY raises ORDER_NOTIFY. A fault of either write faults the chain; an intake that is STOPPED stays so, and loses its
parked record (log 71), and no record is dispatched (R189, R190, R193, R203, R204; the faulting address, log 7). -/
def Obligations.DetailWordsThenTheCompletionWord : Prop :=
  ∀ (e : Nat) (s : State) (r : OrderRecord) (st : Status) (a b : Word) (ws : List HostWrite),
    let chainFaults := fun t : State => t.part.isLatched .chainFault = true ∧
      t.part.alerts.pending.getLsbD Cause.chainFault.bit = true ∧
      t.part.intake.state = (if s.part.intake.state = .stopped then .stopped else .faulted) ∧
      t.part.intake.fetchPosition = none ∧ t.part.intake.parked = none ∧ t.part.intake.holding = []
    (s.part.entry? e = some { record := r, work := .completing st a b false, writes := ws } →
      let word : HostWrite := { address := r.address, bytes := leBytes 8 (st.code + r.tag.toNat * 2 ^ 32) }
      (∃ t, exec (.detailWriteEnd e false) s = .next t ∧ SameBut [] [e] s t ∧
        t.part.entry? e = some { record := r, work := .completing st a b true, writes := [word] }) ∧
      ∃ t, exec (.detailWriteEnd e true) s = .next t ∧ SameBut [.chain, .alerts] [e] s t ∧
        t.part.entry? e = some { record := r, work := .completing st a b true, writes := [word] } ∧
        chainFaults t) ∧
    (s.part.entry? e = some { record := r, work := .completing st a b true, writes := ws } →
      (∃ t, exec (.completionWordWriteEnd e false) s = .next t ∧ SameBut [.alerts] [e] s t ∧
        (t.part.entry? e = none ∨ ∃ x ∈ s.part.intake.holding, t.part.entry? e = some { record := x, work := .handed }) ∧
        (r.notify = true → t.part.alerts.pending = setBit s.part.alerts.pending Cause.orderNotify.bit) ∧
        (r.notify = false → SameAlerts s t)) ∧
      ∃ t, exec (.completionWordWriteEnd e true) s = .next t ∧ SameBut [.chain, .alerts] [e] s t ∧
        t.part.entry? e = none ∧ chainFaults t)

/-- A status-page word lies at the status page address + 8 times its number. One whose write has ended is written again with
the latest value when a rewrite waited. While the engine is BOUND, or UNBINDING outside its last stretch, it is else at rest
when it carries the current value, every other word at rest is written once its value has changed, and one in flight with
another value then waits for a rewrite (R194). In the last stretch no other write begins (R185; judged anew by each command,
log 39). -/
def Obligations.AStatusWordIsRewrittenOnce : Prop :=
  ∀ (i : Nat) (fault : Bool) (s : State) (w : StatusWord) (v : HostWrite) (page : Word),
    s.part.engine.state = .bound ∨ s.part.engine.state = .unbinding →
    s.part.intake.statusPage = some page → s.part.status[i]? = some w → w.writing = some v →
    let write := fun (j : Nat) (x : Word) =>
      ({ address := page + BitVec.ofNat 64 (8 * j), bytes := leBytes 8 x.toNat } : HostWrite)
    let fresh := fun (j : Nat) (x : Word) =>
      ({ value := x, writing := some (write j x), waiting := false } : StatusWord)
    let last := s.part.engine.state = .unbinding ∧ s.part.engine.drained = true ∧ s.part.entriesInUse = [] ∧
      s.part.sweep.atRest = true
    ∃ t, exec (.statusWordWriteEnd i fault) s = .next t ∧ SameBut [] [] s t ∧
      (w.waiting = true → ∃ u, t.part.status[i]? = some u ∧ u.writing = some (write i (s.part.statusValue i))) ∧
      (last → (w.waiting = false → t.part.status[i]? = some { w with writing := none }) ∧
        ∀ j, j ≠ i → t.part.status[j]? = s.part.status[j]?) ∧
      (¬last → w.waiting = false → w.value = t.part.statusValue i →
        t.part.status[i]? = some { w with writing := none }) ∧
      (¬last → w.waiting = false → w.value ≠ t.part.statusValue i →
        t.part.status[i]? = some (fresh i (t.part.statusValue i))) ∧
      ∀ j x, ¬last → j ≠ i → s.part.status[j]? = some x →
        (x.writing = none → x.waiting = false → x.value = t.part.statusValue j → t.part.status[j]? = some x) ∧
        (x.writing = none → x.waiting = true ∨ x.value ≠ t.part.statusValue j →
          t.part.status[j]? = some (fresh j (t.part.statusValue j))) ∧
        ∀ y, x.writing = some y →
          t.part.status[j]? =
            some { x with waiting := x.waiting || decide (y ≠ write j (t.part.statusValue j)) }

/-! ### Orders -/

/-- A REPORT takes all its 2,048 bytes in one moment, of a checkpoint write in flight the byte writes that had taken; its
fields stand at the places of R208, and they are written at parameter 0. It answers OK with 2,048 when they are written,
HOST_MEMORY_FAULT on a fault; misaligned or with too small a buffer it is INVALID (R192, R207, R208; that the RESERVED
place of the Retry List stands right behind the OCCUPIED ones, and the FREE ones after it, is the model's choice, log 57,
and so is that its yes-or-no bytes are 1 and 0, log 68). -/
def Obligations.AReportIsTakenAndWritten : Prop :=
  ∀ (e : Nat) (s : State),
    (∀ r taken, OrderReady s e r → r.kind = kindReport →
      (aligned 8 r.p0 = true → 2048 ≤ r.p1.toNat →
        let read := s.part.onStore fun c => c.takeTo taken
        ∃ t b, exec (.report e taken) s = .next t ∧ SameBut [.store] [e] s t ∧
          t.part.store = s.part.store.takeTo taken ∧
          t.part.entry? e =
            some { record := r, work := .report b, writes := [{ address := r.p0, bytes := b }] } ∧
          b = read.reportBytes ∧
          (s.part.store.slots.length = 2 → (∀ x ∈ s.part.store.slots, x.length = 256) →
            b.length = 2048 ∧ ReportHoldsMembers read b ∧ ReportHoldsSweep read b ∧ ReportHoldsRetry read b ∧
              ReportHoldsPace read b)) ∧
      (aligned 8 r.p0 = false ∨ r.p1.toNat < 2048 →
        ∃ t a, exec (.report e taken) s = .next t ∧ SameBut [] [e] s t ∧ Finished t e .invalid a 0)) ∧
    ∀ b, s.part.workOf e = some (.report b) →
      (∃ t, exec (.reportWriteEnd e false) s = .next t ∧ SameBut [] [e] s t ∧ Finished t e .ok 2048 0) ∧
        ∃ t, exec (.reportWriteEnd e true) s = .next t ∧ SameBut [] [e] s t ∧ Finished t e .hostMemoryFault 0 0

/-- A LOAD PROFILE with no load in progress, no extent order active and the sweep at IDLE, DONE or HALTED begins its fetch;
otherwise it is BUSY; misaligned it is INVALID (R3). -/
def Obligations.LoadProfileBeginsItsFetch : Prop :=
  ∀ (e : Nat) (r : OrderRecord) (s : State), OrderReady s e r → r.kind = kindLoadProfile →
    let free := s.part.loading = false ∧ s.part.extentActive = false ∧
      (s.part.sweep.state = .idle ∨ s.part.sweep.state = .done ∨ s.part.sweep.state = .halted)
    (free → aligned 8 r.p0 = true → s.part.intake.barrier ≠ some e →
      ∃ t, exec (.loadProfile e) s = .next t ∧ SameBut [.geometry] [e] s t ∧ t.part.workOf e = some .waiting ∧
        t.part.geometry =
          { s.part.geometry with
            load := some { entry := e, fetching := true, unsettled := [], absentSlots := 0 } }) ∧
    (free → aligned 8 r.p0 = false →
      ∃ t a, exec (.loadProfile e) s = .next t ∧ SameBut [] [e] s t ∧ Finished t e .invalid a 0) ∧
    (¬free → ∃ t, exec (.loadProfile e) s = .next t ∧ SameBut [] [e] s t ∧ Finished t e .busy 0 0)

/-- A profile block that passes every check is installed: profile, Member Table, lanes, frames and pacing parameters, with
every mapped lane still to settle; a sweep in HALTED or DONE goes to IDLE. One that fails leaves what was installed and the
order INVALID with the index of the first failing field, and a fault answers HOST_MEMORY_FAULT; the orders held begin their
checks (R2 to R6, R49, R80, R123, R150). A sweep that a CLEAR released from its last halt cause during the load leaves
HALTED then (log 52). -/
def Obligations.TheProfileBlockIsInstalledOrRefused : Prop :=
  ∀ (s : State) (l : Load), s.part.geometry.load = some l → l.fetching = true → s.part.retry.joins = [] →
    (∀ b, profileFail b = none →
      s.part.sweep.state = .idle ∨ s.part.sweep.state = .done ∨ s.part.sweep.state = .halted →
      let g := profileOf b
      let b0 := max g.pace.floor (min g.pace.ceiling g.pace.initial)
      ∃ t, exec (.profileFetch (some b)) s = .next t ∧
        t.part.geometry =
          { s.part.geometry with
            profile := some g, members := memberTable g, failed := false,
            load := some { l with fetching := false, unsettled := g.lanes } } ∧
        t.part.lanes = installLanes g 0 s.part.lanes ∧
        (∀ i, i < s.part.buffer.frames.length → t.part.frame i =
          { s.part.frame i with
            pool := some (if i < g.sweepPool then .sweep else .order), owner := none, state := .free }) ∧
        t.part.pace.installed = some { g.pace with initial := b0 } ∧ t.part.pace.next = none ∧
        t.part.pace.budget = b0 ∧ t.part.pace.remaining = 0 ∧ t.part.pace.timer = none ∧
        t.part.sweep.state = .idle ∧
        (s.part.sweep.state ≠ .idle →
          t.part.sweep.watermark = 0 ∧ t.part.sweep.next = 0 ∧ t.part.sweep.haltSet = 0 ∧
            t.part.sweep.window = List.replicate 4 none ∧ t.part.retry.onChip = [] ∧ t.part.retry.count = 0)) ∧
    ∀ bytes, (∀ b, bytes = some b → profileFail b ≠ none) → (s.part.entry? l.entry).isSome = true →
      let status := if bytes = none then Status.hostMemoryFault else .invalid
      (s.part.sweep.state ≠ .halted ∨ s.part.sweep.haltSet ≠ 0 →
        ∃ t q, exec (.profileFetch bytes) s = .next t ∧
          t.part = finish (settleWork (s.part.geometry.held.foldl beginHeld q)) ∧ q.sweep = s.part.sweep ∧
          q.geometry = { s.part.geometry with load := none, held := [] } ∧
          (∃ a b, q.workOf l.entry = some (.completing status a b false)) ∧
          (s.part.geometry.held = [] → FinishedWith t l.entry status ∧
            t.part.geometry = { s.part.geometry with load := none } ∧
            ∀ b i, bytes = some b → profileFail b = some i → Finished t l.entry .invalid 0 (BitVec.ofNat 64 i))) ∧
      (s.part.sweep.state = .halted → s.part.sweep.haltSet = 0 → s.part.geometry.held = [] →
        s.part.targetSlot ≠ none → s.part.condition ≠ .failed → s.part.sweep.pass = .main →
        s.part.sweep.watermark < s.part.stripeCount →
        ∃ t, exec (.profileFetch bytes) s = .next t ∧ FinishedWith t l.entry status ∧
          t.part.sweep.state = if s.part.engine.state = .unbinding then .pausing else .sweeping)

/-- READ EXTENT and WRITE EXTENT are held during a load; otherwise they are checked in order, and an order that passes
takes its first stripe and asks for its lock: granted at once, it takes the rebuilt answer and asks for the frames of its
first band, up to 8 of the stripe's touched rows, m frames a row for a READ and 2m for a WRITE (R4, R53, R84, R89, R122,
R164 to R167). An order that completes gives up its lock, and answers by its stop cause, its lost rows and its
reconstructed blocks (R92, R180; detail B of an order stopped, log 8 and 66). -/
def Obligations.AnExtentOrderIsCheckedAndStarts : Prop :=
  (∀ (write : Bool) (e : Nat) (r : OrderRecord) (s : State), OrderReady s e r →
    r.kind = (if write then kindWriteExtent else kindReadExtent) →
    let c := if write then Instr.writeExtent e else Instr.readExtent e
    (s.part.loading = true →
      ∃ t, exec c s = .next t ∧ SameBut [.geometry] [e] s t ∧ t.part.workOf e = some .held ∧
        t.part.geometry = { s.part.geometry with held := s.part.geometry.held ++ [e] }) ∧
    (s.part.loading = false → s.part.geometry.profile = none →
      ∃ t, exec c s = .next t ∧ SameBut [] [e] s t ∧ Finished t e .noProfile 0 0) ∧
    ∀ g, s.part.loading = false → s.part.geometry.profile = some g →
      let inside := r.malformed = false ∧ r.firstBlock + r.blockCount ≤ g.arrayBlocks
      (r.malformed = true → ∃ t, exec c s = .next t ∧ SameBut [] [e] s t ∧ Finished t e .invalid 0 0) ∧
      (r.malformed = false → g.arrayBlocks < r.firstBlock + r.blockCount →
        ∃ t, exec c s = .next t ∧ SameBut [] [e] s t ∧ Finished t e .outOfRange 0 0) ∧
      (inside → write = true → s.part.condition = .failed →
        ∃ t, exec c s = .next t ∧ SameBut [] [e] s t ∧ Finished t e .arrayFailed 0 0) ∧
      (inside → ¬(write = true ∧ s.part.condition = .failed) →
        let stripe := g.stripeOf r.firstBlock
        let asked := s.part.locks.request (.order e) stripe (if write then .exclusive else .shared)
        let rows := touchedRows g r.firstBlock r.blockCount stripe
        let per := if write then 2 * g.m else g.m
        let n := min 8 (min rows.length (s.part.poolSize .order / per))
        ∃ t x, exec c s = .next t ∧ SameBut [.locks, .buffer] [e] s t ∧ t.part.locks = asked.1 ∧
          t.part.buffer.frames = s.part.buffer.frames ∧ t.part.extent? e = some x ∧ x.stripe = some stripe ∧
          x.stop = none ∧ x.rowsDone = 0 ∧ x.lost = 0 ∧ x.reconstructed = 0 ∧
          (asked.2 = [] → x.lock = .waiting ∧ x.band = none ∧ t.part.buffer.queue = s.part.buffer.queue) ∧
          (asked.2 ≠ [] → x.lock = .held ∧ x.rebuilt = some (s.part.rebuilt stripe) ∧
            x.unbuilt = (if s.part.rebuilt stripe then none else s.part.targetSlot) ∧
            (∀ i, i ∈ rows ↔ i < g.k ∧ ∃ d, d < g.n ∧ r.firstBlock ≤ g.blockAt stripe d i ∧
              g.blockAt stripe d i < r.firstBlock + r.blockCount) ∧
            x.rowsLeft = rows.drop n ∧
            x.band = some { granted := false, places := [], dma := .idle,
                            rows := (rows.take n).map fun i =>
                              .start write i (requestedSlots g r.firstBlock r.blockCount stripe i) } ∧
            t.part.buffer.queue = s.part.buffer.queue ++ [(e, per * n)]))) ∧
  ∀ (e : Nat) (p : Part) (g : Profile) (x : OrderEntry) (ext : Extent), p.geometry.profile = some g →
    p.entry? e = some x → p.extent? e = some ext →
    let q := completeExtent e p
    let answers := fun st a b => q.workOf e = some (.completing st (BitVec.ofNat 64 a) b false)
    let write := x.record.isWrite
    q.locks = p.locks.givenUp (.order e) ∧
      (∀ cause, ext.stop = some cause → ∃ b, answers cause.status ext.rowsDone b ∧
        ∀ block, (orderRowBlocks g x.record.firstBlock x.record.blockCount)[ext.rowsDone]? = some block →
          b = BitVec.ofNat 64 block) ∧
      (ext.stop = none → 0 < ext.lost → answers .dataLost ext.lost (BitVec.ofNat 64 (ext.firstLost.getD 0))) ∧
      (ext.stop = none → ext.lost = 0 → write = false → 0 < ext.reconstructed →
        answers .recovered x.record.blockCount (BitVec.ofNat 64 ext.reconstructed)) ∧
      (ext.stop = none → ext.lost = 0 → write = true ∨ ext.reconstructed = 0 → answers .ok x.record.blockCount 0)

/-- MEMBER STATE: CLEAR COUNTERS sets the slot's four counters to 0; MAKE ABSENT makes the member ABSENT, closes its
lane and raises MEMBER_DOWN; the order completes with OK, the member's state and the array condition as they are then,
and the bands go on. A slot of m or above, or another action, is INVALID, without a profile it is NO_PROFILE, and
during a load it is held (R4, R11, R12, R14, R77). Wherever a member is made ABSENT: the TARGET's loss halts the sweep
with SPARE_FAULT, latched; the loss that makes the array FAILED raises ARRAY_FAILED, halts the sweep, and every WRITE
past its checks takes the stop cause ARRAY_FAILED unless it has one: with its band in flight it goes on, else it
leaves the order-pool queue, gives up its lock and completes (R12, R15, R16, R117, R178; log 19). -/
def Obligations.MemberStateChangesTheMember : Prop :=
  (∀ (e : Nat) (r : OrderRecord) (s : State), OrderReady s e r → r.kind = kindMemberState →
    (s.part.loading = true →
      ∃ t, exec (.memberState e) s = .next t ∧ SameBut [.geometry] [e] s t ∧ t.part.workOf e = some .held ∧
        t.part.geometry = { s.part.geometry with held := s.part.geometry.held ++ [e] }) ∧
    (s.part.loading = false → s.part.geometry.profile = none →
      ∃ t, exec (.memberState e) s = .next t ∧ SameBut [] [e] s t ∧ FinishedWith t e .noProfile) ∧
    ∀ g, s.part.loading = false → s.part.geometry.profile = some g →
    let slot := r.p0.toNat
    (g.m ≤ slot ∨ (r.p1 ≠ 1 ∧ r.p1 ≠ 2) →
      ∃ t a, exec (.memberState e) s = .next t ∧ SameBut [] [e] s t ∧ Finished t e .invalid a 0) ∧
    (slot < g.m → r.p1 = 2 →
      ∃ t, exec (.memberState e) s = .next t ∧
        t.part = finish (settleWork (advanceBands [] (finishOrder e .ok (detail (s.part.member slot).state.code)
          (detail s.part.conditionCode) (clearCounters slot s.part.taken)))) ∧
        (t.part.member slot).medium = 0 ∧ (t.part.member slot).timeouts = 0 ∧ (t.part.member slot).trailers = 0 ∧
        (t.part.member slot).consecutive = 0) ∧
    (slot < g.m → r.p1 = 1 → (s.part.member slot).state = .online ∨ (s.part.member slot).state = .target →
      let q := makeAbsent slot s.part.taken
      ∃ t, exec (.memberState e) s = .next t ∧ (t.part.member slot).state = .absent ∧
        t.part = finish (settleWork (advanceBands [] (finishOrder e .ok (detail 3) (detail q.conditionCode) q)))) ∧
    (slot < g.m → r.p1 = 1 → (s.part.member slot).state = .absent →
      ∃ t, exec (.memberState e) s = .next t ∧
        t.part = finish (settleWork (advanceBands [] (finishOrder e .ok (detail 3) (detail s.part.conditionCode)
          s.part.taken))))) ∧
  (∀ (slot : Nat) (p : Part), slot < p.geometry.members.length →
    (p.member slot).state = .online ∨ (p.member slot).state = .target →
    let q := makeAbsent slot p
    let third := p.geometry.failed = false ∧ p.erasures = 2 ∧ (p.member slot).state = .online
    let inPass := p.sweep.state = .sweeping ∨ p.sweep.state = .retrying ∨ p.sweep.state = .pausing
    let held := p.sweep.state = .halting ∨ p.sweep.state = .halted
    let halts := fun c : HaltCause => (inPass ∨ held ∨ p.sweep.state = .paused → q.haltSetHas c = true) ∧
      (inPass → q.sweep.state = .halting) ∧ (held → q.sweep.state = p.sweep.state) ∧
      (p.sweep.state = .paused → q.sweep.state = .halted)
    (q.member slot).state = .absent ∧ (∀ k, k ≠ slot → q.member k = p.member k) ∧
      q.alerts.pending.getLsbD Cause.memberDown.bit = true ∧
      ((p.member slot).lane < p.lanes.length →
        (q.lane (p.member slot).lane).state = .closed ∧ (q.lane (p.member slot).lane).requests = []) ∧
      (¬inPass → ¬held → p.sweep.state ≠ .paused →
        q.sweep.state = p.sweep.state ∧ q.sweep.haltSet = p.sweep.haltSet) ∧
      ((p.member slot).state = .target → halts .spareFault ∧
        (inPass ∨ held ∨ p.sweep.state = .paused → q.isLatched .spareFault = true)) ∧
      ((p.member slot).state = .online → p.erasures ≤ 1 → q.geometry.failed = p.geometry.failed ∧
        q.alerts = p.alerts.raise .memberDown ∧ q.sweep.state = p.sweep.state) ∧
      (third → q.geometry.failed = true ∧ q.alerts.pending.getLsbD Cause.arrayFailed.bit = true ∧ halts .arrayFailed ∧
        ∀ e x ext, e < 32 → p.entry? e = some x → p.extent? e = some ext → x.record.isWrite = true →
          p.geometry.profile ≠ none →
          let cause := ext.stop.getD .arrayFailed
          ((∃ b, ext.band = some b ∧ b.granted = true) →
            p.locks.waits (.order e) = false → (q.extent? e).map (fun y => { y with band := ext.band }) =
              some { ext with stop := some cause }) ∧
          ((∀ b, ext.band = some b → b.granted = false) →
            (∃ b, q.workOf e = some (.completing cause.status (BitVec.ofNat 64 ext.rowsDone) b false)) ∧
            (ext.band ≠ none → ∀ y ∈ q.buffer.queue, y.1 ≠ e)))) ∧
  ∀ (e : Nat) (p : Part) (x : OrderEntry) (ext : Extent), p.geometry.profile ≠ none → p.entry? e = some x →
    p.extent? e = some ext → x.record.isWrite = true → (∀ b, ext.band = some b → b.granted = false) →
    (leaveAtStop p e).locks = p.locks.givenUp (.order e)

/-- START SWEEP is held during a load; without a profile it is NO_PROFILE, with an unknown origin INVALID, and BUSY unless
the sweep is IDLE with a TARGET in an array that is not FAILED. From the beginning or from a stripe below S it sets W and N
there, empties the window and the Retry List, sets B to B0 and starts a pacing window in SWEEPING; from a checkpoint it
enters STARTING and reads the slots once no checkpoint write is in flight (R4, R97 to R99, R147, R151, R158). -/
def Obligations.StartSweepBeginsAtItsWatermark : Prop :=
  ∀ (e : Nat) (r : OrderRecord) (s : State), OrderReady s e r → r.kind = kindStartSweep →
    let named := r.p0 = 0 ∨ r.p0 = 1 ∨ r.p0 = 2
    (s.part.loading = true →
      ∃ t, exec (.startSweep e) s = .next t ∧ SameBut [.geometry] [e] s t ∧ t.part.workOf e = some .held ∧
        t.part.geometry = { s.part.geometry with held := s.part.geometry.held ++ [e] }) ∧
    (s.part.loading = false → s.part.geometry.profile = none →
      ∃ t, exec (.startSweep e) s = .next t ∧ SameBut [] [e] s t ∧ FinishedWith t e .noProfile) ∧
    ∀ g, s.part.loading = false → s.part.geometry.profile = some g →
      let mayStart := s.part.sweep.state = .idle ∧ s.part.targetSlot ≠ none ∧ s.part.condition ≠ .failed
      (¬named → ∃ t a, exec (.startSweep e) s = .next t ∧ SameBut [] [e] s t ∧ Finished t e .invalid a 0) ∧
      (named → ¬mayStart → ∃ t, exec (.startSweep e) s = .next t ∧ SameBut [] [e] s t ∧ FinishedWith t e .busy) ∧
      (∀ w x, mayStart → s.part.pace.installed = some x → s.part.engine.state = .bound →
        (r.p0 = 0 ∧ w = 0 ∨ r.p0 = 1 ∧ w = r.p1.toNat) → w < g.stripes →
        ∃ t, exec (.startSweep e) s = .next t ∧ SameBut [.sweep, .retry, .pace, .store] [e] s t ∧
          Finished t e .ok (BitVec.ofNat 64 w) 0 ∧
          t.part.sweep.state = .sweeping ∧ t.part.sweep.pass = .main ∧ t.part.sweep.watermark = w ∧
          t.part.sweep.next = w ∧ t.part.sweep.window = List.replicate 4 none ∧ t.part.sweep.haltSet = 0 ∧
          t.part.sweep.settleCount = 0 ∧ t.part.retry.onChip = [] ∧ t.part.retry.count = 0 ∧
          t.part.retry.spilled = false ∧ t.part.retry.overflow = false ∧
          t.part.pace.budget = x.initial ∧ t.part.pace.remaining = x.initial ∧ t.part.pace.timer = some x.window ∧
          t.part.pace.track = false ∧ t.part.pace.inBand = 0 ∧ t.part.pace.drift = 0 ∧
          t.part.store = { s.part.store with target := s.part.targetSlot }) ∧
      (mayStart → r.p0 = 1 → g.stripes ≤ r.p1.toNat →
        ∃ t, exec (.startSweep e) s = .next t ∧ SameBut [] [e] s t ∧ FinishedWith t e .outOfRange) ∧
      (mayStart → r.p0 = 2 → s.part.intake.barrier ≠ some e →
        ∃ t, exec (.startSweep e) s = .next t ∧ SameBut [.sweep, .store] [e] s t ∧ t.part.workOf e = some .waiting ∧
          t.part.sweep = { s.part.sweep with state := .starting, startWait := some e } ∧
          t.part.store =
            { s.part.store with read := if s.part.store.write = none then .reading else .waiting })

/-- The slot read of STARTING, by the tests in their order: no current slot or an ABANDONED one is NO_CHECKPOINT; one of
another array or target MISMATCH (of a target lost meanwhile, log 23); then, with no TARGET or the array FAILED, BUSY: the
sweep is IDLE again. Otherwise the sweep starts at the resume point, or at S for a DONE slot; at S it goes on to FINISHING
with its write begun, or to DONE when none can begin; that a resume point above S does the same, with W as read, is the
model's choice (log 35). Detail B is the slot's generation (R98, R99, R121, R147). -/
def Obligations.TheSlotReadStartsTheSweepAtItsResumePoint : Prop :=
  ∀ (s : State) (g : Profile) (e : Nat), s.part.store.read = .reading → s.part.sweep.state = .starting →
    s.part.sweep.startWait = some e → s.part.geometry.profile = some g → (s.part.entry? e).isSome = true →
    (∀ i, s.part.store.current = some i →
      let b := s.part.store.slot i
      let generation := BitVec.ofNat 64 (slotHead b)
      let w := if slotState b = codeDone then g.stripes else slotResume b
      let matching := slotSignature b = g.signature ∧ slotM b = g.m ∧ slotStripes b = g.stripes ∧ slotK b = g.k ∧
        s.part.comparedTarget g = some (slotTarget b)
      let stands := s.part.targetSlot ≠ none ∧ s.part.condition ≠ .failed
      (slotState b = codeAbandoned →
        ∃ t a, exec .checkpointReadEnd s = .next t ∧ Finished t e .noCheckpoint a generation ∧
          t.part.sweep.state = .idle) ∧
      (slotState b ≠ codeAbandoned → ¬matching →
        ∃ t a, exec .checkpointReadEnd s = .next t ∧ Finished t e .mismatch a generation ∧
          t.part.sweep.state = .idle) ∧
      (slotState b ≠ codeAbandoned → matching → ¬stands →
        ∃ t a, exec .checkpointReadEnd s = .next t ∧ Finished t e .busy a generation ∧ t.part.sweep.state = .idle) ∧
      (slotState b ≠ codeAbandoned → matching → stands →
        (w < g.stripes → s.part.engine.state = .bound →
          ∃ t, exec .checkpointReadEnd s = .next t ∧ SameBut [.sweep, .retry, .pace, .store] [e] s t ∧
            Finished t e .ok (BitVec.ofNat 64 w) generation ∧ t.part.sweep.state = .sweeping ∧
            t.part.sweep.watermark = w ∧ t.part.sweep.next = w ∧ t.part.store.read = .none) ∧
        (g.stripes ≤ w →
          ∃ t, exec .checkpointReadEnd s = .next t ∧ Finished t e .ok (BitVec.ofNat 64 w) generation ∧
            t.part.sweep.watermark = w ∧
            (s.part.isLatched .checkpointFault = false →
              t.part.sweep.state = .finishing ∧ t.part.store.write ≠ none) ∧
            (s.part.isLatched .checkpointFault = true → s.part.store.write = none → t.part.sweep.state = .done)))) ∧
    (s.part.store.current = none →
      ∃ t, exec .checkpointReadEnd s = .next t ∧ FinishedWith t e .noCheckpoint ∧ t.part.sweep.state = .idle)

/-- PAUSE in a pass sends the sweep to PAUSING with the order waiting and the pacing window ended; in PAUSED it completes at
once with W (of detail B there, log 33); in any other state it is BUSY. RESUME in PAUSED returns the sweep to its pass,
SWEEPING or RETRYING, with a fresh pacing window and B as it stands. Every unsettled context that holds its reservation
asks for its stripe's lock again, EXCLUSIVE, in the order of the places (log 60), enters LOCK_WAIT, and goes on with its
record as it was when granted; one without a reservation waits for one (log 54). At W = S the main pass ends in the same
step, to RETRYING while the Retry List holds an entry and else to FINISHING, and so does the retry pass with list and window
empty (R113, R121). While UNBINDING the sweep goes to PAUSING at once, and no context asks for a lock (R116; log 46). RESUME
in a pass completes and changes nothing; in any other state it is BUSY (R91, R102, R114, R115, R151). -/
def Obligations.PauseAndResumeSweepAreTaken : Prop :=
  (∀ (e : Nat) (r : OrderRecord) (s : State), OrderReady s e r → r.kind = kindPauseSweep →
     (s.part.sweep.inPass = true → s.part.intake.barrier ≠ some e →
       ∃ t, exec (.pauseSweep e) s = .next t ∧ SameBut [.sweep, .pace] [e] s t ∧ t.part.workOf e = some .waiting ∧
         t.part.sweep = { s.part.sweep with state := .pausing, pauseWait := s.part.sweep.pauseWait ++ [e] } ∧
         t.part.pace.timer = none ∧ t.part.pace.remaining = 0) ∧
     (s.part.sweep.state = .paused →
       ∃ t, exec (.pauseSweep e) s = .next t ∧ SameBut [] [e] s t ∧
         Finished t e .ok (BitVec.ofNat 64 s.part.sweep.watermark) 5) ∧
     (s.part.sweep.inPass = false → s.part.sweep.state ≠ .paused →
       ∃ t, exec (.pauseSweep e) s = .next t ∧ SameBut [] [e] s t ∧ FinishedWith t e .busy)) ∧
  (∀ (e : Nat) (r : OrderRecord) (s : State) (x : PaceSet), OrderReady s e r → r.kind = kindResumeSweep →
     s.part.pace.installed = some x →
     (s.part.sweep.state = .paused → s.part.engine.state ≠ .unbinding →
       let p := s.part
       let asks := (List.range 4).filter fun i => (p.context? i).any fun c => c.reserved && !c.settled
       let fresh := { p.pace with timer := some x.window, remaining := p.pace.budget }
       let passOver := p.retry.isEmpty = true ∧
         ((p.sweep.pass = .main ∧ p.stripeCount ≤ p.sweep.watermark) ∨ (p.sweep.pass = .retry ∧ p.windowEmpty = true))
       ∃ (t : State) (v : Part) (b : Word), exec (.resumeSweep e) s = .next t ∧ t.part = finish (settleWork v) ∧
         Finished t e .ok (BitVec.ofNat 64 p.sweep.watermark) b ∧
         v.sweep.watermark = p.sweep.watermark ∧ v.sweep.next = p.sweep.next ∧
         v.locks = asks.foldl (fun l i =>
           (l.request (.context i) (((p.context? i).map (·.stripe)).getD 0) .exclusive).1) p.locks ∧
         (∀ i c, i < 4 → p.context? i = some c →
           (i ∉ asks → v.context? i = some c) ∧
           (i ∈ asks → p.locks.holds (.context i) = false → v.context? i =
             some { c with phase := if v.locks.holds (.context i) then .banding else .lockWait })) ∧
         (∀ i, i ∈ v.findings.waiting ↔ i ∈ p.findings.waiting ∨
           (i < 4 ∧ ∃ c, p.context? i = some c ∧ c.settled = false ∧ c.reserved = false)) ∧
         (p.sweep.pass = .main → p.sweep.watermark < p.stripeCount → v.sweep.state = .sweeping ∧ v.pace = fresh) ∧
         (p.sweep.pass = .main → p.stripeCount ≤ p.sweep.watermark → p.retry.isEmpty = false → p.pace.next = none →
           v.sweep.state = .retrying ∧ v.sweep.pass = .retry ∧ v.pace = fresh) ∧
         (p.sweep.pass = .retry → p.retry.isEmpty = false ∨ p.windowEmpty = false →
           v.sweep.state = .retrying ∧ v.sweep.pass = .retry ∧ v.pace = fresh) ∧
         (passOver → p.geometry.profile ≠ none → v.pace.timer = none ∧
           (p.isLatched .checkpointFault = false → v.sweep.state = .finishing ∧ v.store.write ≠ none) ∧
           (p.isLatched .checkpointFault = true → p.store.write = none → v.sweep.state = .done)) ∧
         (p.retry.joins = [] → t.part.sweep.state = v.sweep.state ∧ t.part.sweep.watermark = p.sweep.watermark ∧
           t.part.pace = v.pace)) ∧
     (s.part.sweep.state = .paused → s.part.engine.state = .unbinding → s.part.retry.joins = [] →
       ∃ t b, exec (.resumeSweep e) s = .next t ∧ Finished t e .ok (BitVec.ofNat 64 s.part.sweep.watermark) b ∧
         t.part.sweep.state = .pausing ∧ t.part.locks = s.part.locks ∧ t.part.pace.timer = none) ∧
     (s.part.sweep.inPass = true →
       ∃ t b, exec (.resumeSweep e) s = .next t ∧ SameBut [] [e] s t ∧
         Finished t e .ok (BitVec.ofNat 64 s.part.sweep.watermark) b) ∧
     (s.part.sweep.inPass = false → s.part.sweep.state ≠ .paused →
       ∃ t, exec (.resumeSweep e) s = .next t ∧ SameBut [] [e] s t ∧ FinishedWith t e .busy))

/-- ABANDON in a state that can be abandoned sends the sweep to ABANDONING with its checkpoint asked for, or with a write
in flight again-pending, and the pacing window ended. Every context that has no band and no settle under way gives up its
lock or its request and is discarded, the others stay (R91, R120, R143, R151; the order of the places, log 53); with the
window empty the Retry List is emptied. While CHECKPOINT_FAULT is latched no write begins, and the sweep is IDLE with
CHECKPOINT_FAILED as soon as the window is empty (R120, R123, R143, R145). In IDLE it completes at once; otherwise it is
BUSY. -/
def Obligations.AbandonSweepEntersAbandoning : Prop :=
  (∀ (e : Nat) (r : OrderRecord) (s : State), OrderReady s e r → r.kind = kindAbandonSweep →
    (s.part.sweep.state.abandonable = true → s.part.isLatched .checkpointFault = false →
      s.part.geometry.profile ≠ none →
      let goes := fun i => ∃ c, s.part.context? i = some c ∧ c.band = none ∧ c.joining = false
      ∃ (t : State) (v : Part) (left : List Nat), exec (.abandonSweep e) s = .next t ∧ t.part = finish (settleWork v) ∧
        t.part.sweep.state = .abandoning ∧
        t.part.sweep.watermark = s.part.sweep.watermark ∧
        t.part.sweep.abandonWait = some { entry := e, watermark := s.part.sweep.watermark, wrote := none } ∧
        t.part.pace.timer = none ∧ t.part.store.write ≠ none ∧
        (s.part.store.write = none → t.part.store.sweepWait = some false) ∧
        (s.part.store.write ≠ none → t.part.store = { s.part.store with again := true, sweepWait := some true }) ∧
        (∀ i, i ∈ left ↔ i < 4 ∧ goes i) ∧ left.Pairwise (· < ·) ∧
        v.locks = left.foldl (fun x i => x.givenUp (.context i)) s.part.locks ∧
        (∀ i c, i < 4 → s.part.context? i = some c →
          (goes i → t.part.context? i = none) ∧
            (¬goes i → ∃ phase, v.context? i = some { c with phase })) ∧
        ((∀ i, i < 4 → s.part.context? i ≠ none → goes i) → v.retry.onChip = [] ∧ v.retry.count = 0)) ∧
    (s.part.sweep.state.abandonable = true → s.part.isLatched .checkpointFault = true → s.part.store.write = none →
      let goes := fun i => ∃ c, s.part.context? i = some c ∧ c.band = none ∧ c.joining = false
      let empties := ∀ i, i < 4 → s.part.context? i ≠ none → goes i
      ∃ (t : State) (v : Part) (left : List Nat), exec (.abandonSweep e) s = .next t ∧ t.part = finish (settleWork v) ∧
        t.part.pace.timer = none ∧ t.part.store.write = none ∧ t.part.store.again = true ∧
        (∀ i, i ∈ left ↔ i < 4 ∧ goes i) ∧ left.Pairwise (· < ·) ∧
        v.locks = left.foldl (fun x i => x.givenUp (.context i)) s.part.locks ∧
        (empties → t.part.sweep.state = .idle ∧ t.part.windowEmpty = true ∧ t.part.retry.onChip = [] ∧
          t.part.retry.count = 0 ∧ ∃ b, Finished t e .checkpointFailed (BitVec.ofNat 64 s.part.sweep.watermark) b) ∧
        (¬empties → v.sweep.state = .abandoning ∧ v.sweep.watermark = s.part.sweep.watermark ∧
          v.sweep.abandonWait = some { entry := e, watermark := s.part.sweep.watermark, wrote := none } ∧
          ∀ i c, i < 4 → s.part.context? i = some c →
            (goes i → t.part.context? i = none) ∧ (¬goes i → ∃ phase, v.context? i = some { c with phase }))) ∧
    (s.part.sweep.state = .idle →
      ∃ t b, exec (.abandonSweep e) s = .next t ∧ SameBut [] [e] s t ∧
        Finished t e .ok (BitVec.ofNat 64 s.part.sweep.watermark) b) ∧
    (s.part.sweep.state.abandonable = false → s.part.sweep.state ≠ .idle →
      ∃ t, exec (.abandonSweep e) s = .next t ∧ SameBut [] [e] s t ∧ FinishedWith t e .busy)) ∧
  ∀ (p : Part) (a : AbandonWait), p.sweep.state = .abandoning → p.windowEmpty = true → p.sweep.abandonWait = some a →
    a.wrote = none → p.store.write = none → p.isLatched .checkpointFault = true → (p.entry? a.entry).isSome = true →
    let u := abandonCheck p
    u.sweep.state = .idle ∧ u.sweep.watermark = 0 ∧ u.retry.onChip = [] ∧ u.retry.count = 0 ∧
      ∃ b, u.workOf a.entry = some (.completing .checkpointFailed (BitVec.ofNat 64 a.watermark) b false)

/-- SET PACE: with the window timer running and no RESTART the set waits for the window's end; otherwise it is installed at
once, B and its B0 clamped into its [F, C], ACQUIRE, the counts 0, and with the timer running a fresh window starts. Without
a profile it is NO_PROFILE, during a load BUSY, and out of range INVALID with the first failing index, in this order (R159
to R161; the bits of its parameters without a field, log 69). -/
def Obligations.SetPaceIsInstalledOrWaits : Prop :=
  (∀ (e : Nat) (r : OrderRecord) (s : State), OrderReady s e r → r.kind = kindSetPace →
    (s.part.geometry.profile = none →
      ∃ t, exec (.setPace e) s = .next t ∧ SameBut [] [e] s t ∧ FinishedWith t e .noProfile) ∧
    (s.part.geometry.profile ≠ none → s.part.loading = true →
      ∃ t, exec (.setPace e) s = .next t ∧ SameBut [] [e] s t ∧ FinishedWith t e .busy)) ∧
  ∀ (e : Nat) (r : OrderRecord) (s : State) (g : Profile), OrderReady s e r → r.kind = kindSetPace →
    s.part.geometry.profile = some g → s.part.loading = false →
    let f := setPaceFields r.p0 r.p1
    let x := paceSet f
    let b := max x.floor (min x.ceiling s.part.pace.budget)
    (∀ i, paceFieldsFail f = some i →
      ∃ t a, exec (.setPace e) s = .next t ∧ SameBut [] [e] s t ∧ Finished t e .invalid a (BitVec.ofNat 64 i)) ∧
    (paceFieldsFail f = none → setPaceRestart r.p2 = false → s.part.pace.timer ≠ none →
      ∃ t, exec (.setPace e) s = .next t ∧ SameBut [.pace] [e] s t ∧
        t.part.pace = { s.part.pace with next := some x } ∧
        Finished t e .ok (BitVec.ofNat 64 s.part.pace.budget) 0) ∧
    (paceFieldsFail f = none → setPaceRestart r.p2 = true ∨ s.part.pace.timer = none →
      ∃ t, exec (.setPace e) s = .next t ∧ SameBut [.pace] [e] s t ∧
        t.part.pace =
          { s.part.pace with
            installed := some { x with initial := max x.floor (min x.ceiling x.initial) }, next := none, budget := b,
            track := false, inBand := 0, drift := 0, below := false,
            remaining := if s.part.pace.timer = none then 0 else b,
            timer := s.part.pace.timer.map fun _ => x.window } ∧
        Finished t e .ok (BitVec.ofNat 64 b) 1)

/-- CHECKPOINT NOW waits for a write that records the state at its request: it begins one at once, with the resume point of
that moment, or with one in flight waits for the next; without a profile it is NO_PROFILE, in IDLE and STARTING BUSY, with
CHECKPOINT_FAULT latched CHECKPOINT_FAILED, in this order (R140, R141, R143 to R145). -/
def Obligations.CheckpointNowBeginsOrJoinsAWrite : Prop :=
  (∀ (e : Nat) (r : OrderRecord) (s : State), OrderReady s e r → r.kind = kindCheckpointNow →
    s.part.geometry.profile = none →
    ∃ t, exec (.checkpointNow e) s = .next t ∧ SameBut [] [e] s t ∧ FinishedWith t e .noProfile) ∧
  ∀ (e : Nat) (r : OrderRecord) (s : State) (g : Profile), OrderReady s e r → r.kind = kindCheckpointNow →
    s.part.geometry.profile = some g → s.part.intake.barrier ≠ some e →
    let running := s.part.sweep.state ≠ .idle ∧ s.part.sweep.state ≠ .starting
    (running → s.part.isLatched .checkpointFault = false → s.part.store.write = none →
      ∃ t w, exec (.checkpointNow e) s = .next t ∧ SameBut [.store] [e] s t ∧ t.part.workOf e = some .waiting ∧
        t.part.store.write = some w ∧ w.resume = s.part.resumePoint ∧ w.taken = 0 ∧
        some w.code = recordedState s.part.sweep.state ∧ ({ entry := e, late := false } : Waiter) ∈ t.part.store.waiters ∧
        t.part.store.slots = s.part.store.slots) ∧
    (running → s.part.isLatched .checkpointFault = false → s.part.store.write ≠ none →
      ∃ t, exec (.checkpointNow e) s = .next t ∧ SameBut [.store] [e] s t ∧ t.part.workOf e = some .waiting ∧
        t.part.store =
          { s.part.store with again := true, waiters := s.part.store.waiters ++ [{ entry := e, late := true }] }) ∧
    (running → s.part.isLatched .checkpointFault = true →
      ∃ t, exec (.checkpointNow e) s = .next t ∧ SameBut [.store] [e] s t ∧ Finished t e .checkpointFailed 0 0 ∧
        t.part.store = { s.part.store with again := true }) ∧
    (¬running → ∃ t, exec (.checkpointNow e) s = .next t ∧ SameBut [] [e] s t ∧ FinishedWith t e .busy)

/-- SET RETRY AREA installs an area of up to 65,535 entries, 16-byte aligned unless its capacity is 0, while the extension
is empty and no refill read is in flight. A BARRIER completes with OK when it is the only order left and waits otherwise; an
order of an unknown kind is INVALID with both details 0 (R131, R190, R191). -/
def Obligations.RetryAreasBarriersAndUnknownKindsAreTaken : Prop :=
  (∀ (e : Nat) (r : OrderRecord) (s : State), OrderReady s e r → r.kind = kindSetRetryArea →
     let good := r.p1.toNat ≤ 65535 ∧ (r.p1.toNat = 0 ∨ r.p0.toNat % 16 = 0)
     (good → s.part.retry.extensionInUse = false → s.part.retry.refilling = false →
       ∃ t b, exec (.setRetryArea e) s = .next t ∧ SameBut [.retry] [e] s t ∧ Finished t e .ok r.p1 b ∧
         t.part.retry =
           { s.part.retry with
             address := r.p0, capacity := r.p1.toNat, head := 0, tail := 0, count := 0, range := none }) ∧
     (good → s.part.retry.extensionInUse = true ∨ s.part.retry.refilling = true →
       ∃ t, exec (.setRetryArea e) s = .next t ∧ SameBut [] [e] s t ∧ FinishedWith t e .busy) ∧
     (¬good → ∃ t a, exec (.setRetryArea e) s = .next t ∧ SameBut [] [e] s t ∧ Finished t e .invalid a 0)) ∧
  (∀ (e : Nat) (r : OrderRecord) (s : State), OrderReady s e r →
     (r.kind = kindBarrier → s.part.intake.barrier = some e →
       ∃ t, exec (.barrier e) s = .next t ∧ SameBut [] [e] s t ∧
         (s.part.entriesInUse = [e] → Finished t e .ok 0 0) ∧
         (s.part.entriesInUse ≠ [e] → t.part.workOf e = some .waiting)) ∧
     (r.kind ∉ orderKinds →
       ∃ t, exec (.unknownOrderKind e) s = .next t ∧ SameBut [] [e] s t ∧ Finished t e .invalid 0 0))

/-! ### The lanes -/

/-- A request issues on the lowest FREE tag of its lane; a WRITE carries its frames' sectors, unless one of them holds a
parity error: then it is not sent. That an issue so stopped still leaves its queue and, contested, records its winner is the
model's choice (log 41) (R57, R65, R66). -/
def Obligations.AnIssuedRequestTakesTheLowestFreeTag : Prop :=
  ∀ (lane : Nat) (upsets : List Nat) (s : State) (g : Profile) (c : LaneClass) (q : LaneRequest),
    s.part.geometry.profile = some g → (s.part.lane lane).canIssue g.depth = true →
    (s.part.lane lane).issuer g.arbiter s.part.condition = some c → (s.part.lane lane).head c = some q →
    let p := strikeFrames upsets (s.part.modLane lane fun l => l.take c)
    ((q.write = true → ∀ f ∈ q.frames, p.parityError f = false) →
      ∃ t k, exec (.requestIssue lane upsets) s = .next t ∧
        lowestIndex (fun x => x = Tag.free) (s.part.lane lane).tags = some k ∧
        t.part.tag lane k = .issued q (if q.write then q.frames.map p.sectorOf else []) ∧
        (∀ j, j ≠ k → t.part.tag lane j = s.part.tag lane j) ∧
        t.part = afterLane lane upsets (setTag lane k (.issued q (if q.write then q.frames.map p.sectorOf else [])) p)) ∧
    (q.write = true → q.frames.filter p.parityError ≠ [] →
      Answers (.requestIssue lane upsets) s (afterLane lane upsets (failIssue q (q.frames.filter p.parityError) p)))

/-- A GOOD answer to an ISSUED tag of a lane that takes answers frees the tag and sets the consecutive timeouts to 0; a
WRITE completes, and a READ's sectors are delivered and checked. With another number of sectors a READ is taken as
NOT_READY. A late answer frees a QUARANTINED tag and does nothing else of its own; any other is discarded (R62, R68, R71,
R73). Sectors delivered with no parity error stand LOADED in their request's frames, each block takes the result of its
trailer check, and each TRAILER result counts a trailer mismatch; of an order, a frame struck by an upset becomes UNFIT and
BUFFER_PARITY is raised, its block takes no result and counts nothing, and its row takes no further part (R9, R21, R26, R50,
R56, R59; of a sweep band's struck frame, O51). -/
def Obligations.AGoodAnswerFreesItsTag : Prop :=
  (∀ (lane tag : Nat) (sectors : List Sector) (upsets : List Nat) (s : State),
    ((s.part.lane lane).takesAnswers = true →
      (∀ q sent, s.part.tag lane tag = .issued q sent →
        let p := setTag lane tag .free s.part
        (q.write = true ∨ sectors.length = q.count →
          ∃ t, exec (.good lane tag sectors upsets) s = .next t ∧ t.part.tag lane tag = .free ∧
            (∀ j, j ≠ tag → t.part.tag lane j = s.part.tag lane j) ∧ (t.part.member q.slot).consecutive = 0 ∧
            t.part = afterLane lane upsets (if q.write then completeWrite q true (clearConsecutive q.slot p)
              else deliver q sectors upsets (clearConsecutive q.slot p))) ∧
        (q.write = false → sectors.length ≠ q.count →
          ∃ t, exec (.good lane tag sectors upsets) s = .next t ∧ t.part.tag lane tag = .free ∧
            t.part = afterLane lane upsets (takeNotReady q upsets p))) ∧
      (s.part.tag lane tag = .quarantined →
        ∃ t, exec (.good lane tag sectors upsets) s = .next t ∧ t.part.tag lane tag = .free ∧
          (∀ j, j ≠ tag → t.part.tag lane j = s.part.tag lane j) ∧
          t.part = afterLane lane upsets (setTag lane tag .free s.part))) ∧
    ((s.part.lane lane).takesAnswers = false ∨ s.part.tag lane tag = .free →
      exec (.good lane tag sectors upsets) s = .next s)) ∧
  ∀ (q : LaneRequest) (sectors : List Sector) (upsets : List Nat) (p : Part), sectors.length ≤ q.frames.length →
    q.frames.Nodup → (∀ f ∈ q.frames, f < p.buffer.frames.length ∧ (p.frame f).state ≠ .unfit) →
    q.slot < p.geometry.members.length → (p.member q.slot).trailers ≤ 65535 →
    let u := deliver q sectors upsets p
    let block := fun i => (sectors.getD i []).take 4096
    let trailer := fun i => (sectors.getD i []).drop 4096
    let result := fun i => checkTrailer (p.ownerStripe q.owner) q.slot (block i) (trailer i)
    let struck := (List.range sectors.length).filter fun i => upsets.contains (q.frames.getD i 0)
    let clean := (List.range sectors.length).filter fun i => !upsets.contains (q.frames.getD i 0)
    ((∃ e, q.owner = .orderBand e) ∨ struck = [] →
      (∀ i f, i ∈ clean → q.frames[i]? = some f →
        u.frame f = { p.frame f with state := .loaded, block := block i, trailer := trailer i, upset := false }) ∧
      (u.member q.slot).trailers =
        min 65535 ((p.member q.slot).trailers + (clean.filter fun i => result i = .erased .trailer).length)) ∧
    (struck = [] → u.lanes = p.lanes ∧ u.alerts = p.alerts ∧
      Recorded q.owner (clean.map fun i => (q.row + i, q.slot, result i)) p u) ∧
    ∀ e v, q.owner = .orderBand e → p.bandView e = some v →
      (∀ i f, i ∈ struck → q.frames[i]? = some f → (u.frame f).state = .unfit) ∧
      (struck ≠ [] → u.alerts.pending = setBit p.alerts.pending Cause.bufferParity.bit) ∧
      (u.bandView e).map (·.ext.stop) =
        some (if struck = [] then v.ext.stop else some (v.ext.stop.getD .bufferFault)) ∧
      (u.bandView e).map (·.band.rows) = some (v.band.rows.map fun w =>
        let w' := { w with results := w.results ++
          (clean.filter fun i => q.row + i = w.row).map fun i => (q.slot, result i) }
        if struck.any fun i => q.row + i = w.row then { w' with phase := .done false, job := none } else w')

/-- A MEDIUM answer frees its tag and counts a medium error; of a READ the sectors before the failing index are delivered
and checked, the block at it is MEDIUM, and the blocks behind it rejoin the head of their queue as a follow-up; with another
number of sectors it is taken as NOT_READY. A NOT_READY answer frees its tag, and its request rejoins the head of its queue
with one more retry while it has retries, and otherwise completes as NOT_READY: each block of a READ that so completes takes
that kind, and nothing else changes. A WRITE that fails makes its member ABSENT; a mend that fails does not: it counts a
medium error and marks its context (R26, R69 to R71, R78, R79, R107). -/
def Obligations.MediumAndNotReadyAnswersAreTaken : Prop :=
  ∀ (lane tag : Nat) (upsets : List Nat) (s : State) (q : LaneRequest) (sent : List Sector) (g : Profile),
    (s.part.lane lane).takesAnswers = true → s.part.tag lane tag = .issued q sent → q.lane < s.part.lanes.length →
    s.part.geometry.profile = some g → (s.part.member q.slot).state ≠ .unmapped →
    let p := setTag lane tag .free s.part
    let r := strikeFrames upsets p
    let counted := fun x => countMedium q.slot x
    (∀ index sectors, q.write = false →
      let j := min index (q.count - 1)
      let d := recordResult q.owner (q.row + j) q.slot (.erased .medium) (deliver q sectors upsets (counted p))
      (sectors.length = j →
        ∃ t u, exec (.medium lane tag index sectors upsets) s = .next t ∧ t.part.tag lane tag = .free ∧
          t.part = afterLane lane upsets u ∧
          (t.part.member q.slot).medium = min 65535 ((s.part.member q.slot).medium + 1) ∧
          (j + 1 < q.count → ∃ f, (u.lane q.lane).head q.laneClass = some f ∧
            u = d.modLane q.lane (fun l => l.joinHead f) ∧
            f = { q with lba := q.lba + j + 1, count := q.count - j - 1, row := q.row + j + 1,
                         frames := q.frames.drop (j + 1), retries := 0, origin := .followUp }) ∧
          (q.count ≤ j + 1 → u = d)) ∧
      (sectors.length ≠ j →
        exec (.medium lane tag index sectors upsets) s = exec (.notReady lane tag upsets) s)) ∧
    (∀ index sectors, q.write = true →
      ∃ t, exec (.medium lane tag index sectors upsets) s = .next t ∧ t.part.tag lane tag = .free ∧
        t.part = afterLane lane upsets
          (completeWrite q false (if q.mend then counted p else makeAbsent q.slot (counted p))) ∧
        (t.part.member q.slot).medium = min 65535 ((s.part.member q.slot).medium + 1) ∧
        (q.mend = false → (t.part.member q.slot).state = .absent)) ∧
    (q.retries < g.requestRetries →
      ∃ t u, exec (.notReady lane tag upsets) s = .next t ∧ t.part.tag lane tag = .free ∧ t.part = afterLane lane upsets u ∧
        u = r.modLane q.lane (fun l => l.joinHead { q with retries := q.retries + 1, origin := .retry }) ∧
        (u.lane q.lane).head q.laneClass = some { q with retries := q.retries + 1, origin := .retry }) ∧
    (g.requestRetries ≤ q.retries →
      ∃ t, exec (.notReady lane tag upsets) s = .next t ∧ t.part.tag lane tag = .free ∧
        (q.write = false → t.part = afterLane lane upsets (completeErased q .notReady r)) ∧
        (q.write = true → t.part = afterLane lane upsets
          (completeWrite q false (if q.mend then counted r else makeAbsent q.slot r))) ∧
        (q.write = true → q.mend = true →
          (t.part.member q.slot).medium = min 65535 ((s.part.member q.slot).medium + 1)) ∧
        (q.write = true → q.mend = false → (t.part.member q.slot).state = .absent)) ∧
    (q.write = false → ∀ (k : ErasureKind) (x : Part), let u := completeErased q k x
      Recorded q.owner ((List.range q.count).map fun i => (q.row + i, q.slot, .erased k)) x u ∧
        u.buffer = x.buffer ∧ u.lanes = x.lanes ∧ u.geometry = x.geometry) ∧
    (∀ (o : Owner) (row slot : Nat) (b : BlockResult) (x : Part), let u := recordResult o row slot b x
      Recorded o [(row, slot, b)] x u ∧ u.buffer = x.buffer ∧ u.lanes = x.lanes ∧ u.geometry = x.geometry) ∧
    ∀ place c, q.owner = .sweepBand place → q.mend = true → s.part.context? place = some c →
      (completeWrite q false (counted p)).context? place = some { c with mendFailed := true } ∧
        (completeWrite q true p).context? place = some { c with mendedRows := setBit c.mendedRows q.row }

/-- A request timer's expiry quarantines the tag of an ISSUED request and counts a timeout. The request rejoins the head of
its class queue with one more retry and origin RETRY while it has retries; otherwise it completes as TIMEOUT, a WRITE that
is no mend making its member ABSENT and a mend counting a medium error. At the absence threshold the member becomes ABSENT,
last of all. On a tag that is not ISSUED no timer runs and nothing changes (R9, R67, R72, R76, R78, R79). After every event
on a lane, one that is OPEN or RECLAIMING is OPEN below 8 quarantined tags; with 8 or more it is RECLAIMING while requests
are outstanding, and with none sends FLUSH and is FLUSHING (R74). -/
def Obligations.ATimeoutQuarantinesItsTag : Prop :=
  (∀ (lane tag : Nat) (upsets : List Nat) (s : State) (g : Profile), s.part.geometry.profile = some g →
    (∀ q sent, s.part.tag lane tag = .issued q sent → (s.part.member q.slot).state ≠ .unmapped →
      let counted := countTimeout q.slot g.absence (strikeFrames upsets (setTag lane tag .quarantined s.part))
      let again := { q with retries := q.retries + 1, origin := .retry }
      let reached := g.absence ≤ (s.part.member q.slot).consecutive + 1
      ∃ t u, exec (.requestTimerExpiry lane tag upsets) s = .next t ∧ t.part.tag lane tag = .quarantined ∧
        t.part = afterLane lane upsets (if reached then makeAbsent q.slot u else u) ∧
        (q.retries < g.requestRetries →
          u = counted.modLane q.lane (fun l => l.joinHead again) ∧
            (q.lane < s.part.lanes.length → (u.lane q.lane).head q.laneClass = some again)) ∧
        (g.requestRetries ≤ q.retries →
          (q.write = false → u = completeErased q .timeout counted ∧
            Recorded q.owner ((List.range q.count).map fun i => (q.row + i, q.slot, .erased .timeout)) counted u) ∧
          (q.write = true → u = completeWrite q false
            (if q.mend then countMedium q.slot counted else makeAbsent q.slot counted)) ∧
          (q.write = true → q.mend = false → (t.part.member q.slot).state = .absent)) ∧
        (t.part.member q.slot).timeouts = min 65535 ((s.part.member q.slot).timeouts + 1) ∧
        (t.part.member q.slot).consecutive = min g.absence ((s.part.member q.slot).consecutive + 1) ∧
        (reached → (t.part.member q.slot).state = .absent)) ∧
    ((∀ q sent, s.part.tag lane tag ≠ .issued q sent) → exec (.requestTimerExpiry lane tag upsets) s = .next s)) ∧
  ∀ (lane : Nat) (upsets : List Nat) (p : Part), lane < p.lanes.length →
    let l := p.lane lane
    let u := reclaimLane lane p
    let reclaims := l.state = .opened ∨ l.state = .reclaiming
    afterLane lane upsets p = finish (settleWork (advanceBands upsets u)) ∧
      u = { p with lanes := u.lanes } ∧ (∀ j, j ≠ lane → u.lane j = p.lane j) ∧
      (reclaims → l.quarantined < 8 → u.lane lane = { l with state := .opened }) ∧
      (reclaims → 8 ≤ l.quarantined → 0 < l.outstanding → u.lane lane = { l with state := .reclaiming }) ∧
      (reclaims → 8 ≤ l.quarantined → l.outstanding = 0 →
        u.lane lane = { l with state := .flushingReclaim, flushes := l.flushes + 1 }) ∧
      (¬reclaims → u = p)

/-- The last FLUSHED a lane waits for frees its quarantined tags, ISSUED tags stay, and a FLUSHING lane is OPEN, a
CLOSED one stays CLOSED; with more flushes pending it is only counted; on an UNMAPPED lane or with none pending it is
discarded. With the last lane of a load settled LOAD PROFILE completes with OK, the number and the set of the slots
made ABSENT, and the orders held begin their checks. The 1 s limit of a load or of a reclaim makes the lane's member
ABSENT (R4, R6, R62, R75). -/
def Obligations.FlushedFreesTheQuarantinedTags : Prop :=
  ∀ (lane : Nat) (s : State),
    let kept := s.part.sweep.state ≠ .halted ∨ s.part.sweep.haltSet ≠ 0
    let loaded := fun (t : State) (l : Load) (absent : BitVec 24) => ∃ q,
      t.part = afterLane lane [] (s.part.geometry.held.foldl beginHeld q) ∧ q.geometry.load = none ∧
        q.geometry.held = [] ∧ q.workOf l.entry =
          some (.completing .ok (BitVec.ofNat 64 ((List.range 24).filter fun i => absent.getLsbD i).length)
            (BitVec.ofNat 64 absent.toNat) false)
    ((s.part.lane lane).state ≠ .unmapped → (s.part.lane lane).flushes = 1 →
      (s.part.loadAwaits lane = false ∨ s.part.geometry.held = [] →
        ∃ t, exec (.flushed lane) s = .next t ∧ (t.part.lane lane).flushes = 0 ∧
          (t.part.lane lane).tags =
            (s.part.lane lane).tags.map (fun x => if x = .quarantined then .free else x) ∧
          ((s.part.lane lane).state = .flushingLoad ∨ (s.part.lane lane).state = .flushingReclaim →
            (t.part.lane lane).state = .opened) ∧
          ((s.part.lane lane).state = .closed → (t.part.lane lane).state = .closed)) ∧
      ∀ l, s.part.loadAwaits lane = true → s.part.geometry.load = some l →
        (l.unsettled.filter (· ≠ lane) ≠ [] → ∃ t, exec (.flushed lane) s = .next t ∧
          t.part.geometry.load = some { l with unsettled := l.unsettled.filter (· ≠ lane) }) ∧
        (l.unsettled.filter (· ≠ lane) = [] → kept → (s.part.entry? l.entry).isSome = true →
          ∃ t, exec (.flushed lane) s = .next t ∧ loaded t l l.absentSlots)) ∧
    ((s.part.lane lane).state ≠ .unmapped → 1 < (s.part.lane lane).flushes →
      Answers (.flushed lane) s
        (afterLane lane [] (s.part.modLane lane fun l => { l with flushes := l.flushes - 1 }))) ∧
    ((s.part.lane lane).state = .unmapped ∨ (s.part.lane lane).flushes = 0 → exec (.flushed lane) s = .next s) ∧
    (∀ slot, s.part.loadAwaits lane = true → s.part.slotOfLane lane = some slot →
      (s.part.geometry.held = [] →
        ∃ t, exec (.loadFlushLimit lane) s = .next t ∧ (t.part.member slot).state = .absent ∧
          ∀ l, s.part.geometry.load = some l →
            (t.part.geometry.load = none ↔ l.unsettled.filter (· ≠ lane) = [])) ∧
      ∀ l, s.part.geometry.load = some l → l.unsettled.filter (· ≠ lane) = [] → kept →
        (s.part.entry? l.entry).isSome = true →
        ∃ t, exec (.loadFlushLimit lane) s = .next t ∧ loaded t l
          (if (s.part.member slot).state = .absent then l.absentSlots else setBit l.absentSlots slot)) ∧
    (∀ slot, (s.part.lane lane).state = .flushingReclaim → s.part.slotOfLane lane = some slot →
      ∃ t, exec (.reclaimFlushLimit lane) s = .next t ∧ (t.part.member slot).state = .absent)

/-! ### Bands and row jobs -/

/-- The head of the order-pool queue is granted its whole need once that many order frames are FREE, and not before; the
frames become RESERVED and the band's, and its work begins (R54; which frames, log 16): a WRITE gathers its blocks (R163,
R172), and a READ reads the readable slots of its requested blocks, with the rest of each row that has one not readable
(R168, R169). A READ band goes on when results come: a row with an erased direct block reads what is left of it, and with
all its results is ready, has a reconstruction job for its erased blocks, or with three or more slots erased loses them
(R169, R170). READs go out by runs of consecutive rows, each maximal (R168; direct and other reads in runs of their own,
log 40). -/
def Obligations.TheQueueHeadIsGrantedItsWholeNeed : Prop :=
  (∀ (s : State) (g : Profile) (e need : Nat) (rest : List (Nat × Nat)) (v : BandView),
    s.part.geometry.profile = some g → s.part.buffer.queue = (e, need) :: rest → s.part.bandView e = some v →
    (need ≤ s.part.freeFrames .order →
      let band := { v.band with granted := true,
                                places := bandLayout g v.record.isWrite (v.band.rows.map (·.row))
                                  (s.part.grantable .order need) }
      let y := { v with ext := { v.ext with band := some band }, band }
      ∃ t u x, exec .orderBandGrant s = .next t ∧ t.part = afterBand [] x ∧
        u = { s.part with buffer := u.buffer, table := u.table } ∧ u.buffer.queue = rest ∧ u.bandView e = some y ∧
        x = { u with lanes := x.lanes, table := x.table } ∧
        (∃ b, x.bandView e = some { y with ext := { y.ext with band := some b }, band := b }) ∧
        (∀ i, i ≠ e → x.entry? i = s.part.entry? i) ∧
        (v.record.isWrite = false → RowsOrdered v.band.rows → ReadBandBegins u e y x) ∧
        (v.record.isWrite = true → x.lanes = u.lanes ∧
          ∃ moves, MovesFor y (v.band.rows.map fun w => (w.row, w.want)) moves ∧
            (x.bandView e).map (·.band) = some { band with dma := .gather moves }) ∧
        (s.part.grantable .order need).length = need ∧ (s.part.grantable .order need).Nodup ∧
        (∀ i ∈ s.part.grantable .order need, (s.part.frame i).freeIn .order = true ∧
          u.frame i = { s.part.frame i with owner := some (.orderBand e), state := .reserved }) ∧
        (∀ i, i ∉ s.part.grantable .order need → u.frame i = s.part.frame i)) ∧
    (s.part.freeFrames .order < need → exec .orderBandGrant s = .next s)) ∧
  (∀ l : List Nat, l.Pairwise (· < ·) →
    let runs := consecutiveRuns l
    (∀ r, r ∈ l ↔ ∃ x ∈ runs, x.1 ≤ r ∧ r < x.1 + x.2) ∧
      (∀ x ∈ runs, 0 < x.2 ∧ x.1 + x.2 ∉ l ∧ ∀ r, r + 1 = x.1 → r ∉ l) ∧
      runs.Pairwise fun a b => a.1 + a.2 < b.1) ∧
  ∀ (e : Nat) (p : Part) (v : BandView), p.bandView e = some v → RowsOrdered v.band.rows →
    ReadBandGoesOn p e v (advanceReads e p) ∧
      (v.band.granted = true → v.record.isWrite = false →
        advanceOrderBand p e = endOrderBand e (beginDelivery e (advanceReads e p)))

/-- A gathering that ends well fills its blocks' frames, gives each row its method of R173 and hands over the READs
that go with it; a fault drops every row and stops the order with HOST_MEMORY_FAULT (R46, R172, R173, R179). Once
every row of a READ band is ready or done with, its ready blocks are delivered in increasing extent offset, or with
none the rows are completed (R163, R171). A delivery completes each row whose ready blocks were all given; a parity
error keeps back its row's blocks from there on, and it or a fault stops the order (R56, R59, R171, R179; with both,
log 48). A band ends once nothing of it is left to do: its frames are FREE again, its leading completed rows counted,
and the order stops, asks for its next band or stripe, or completes (R55, R59, R92, R166, R167, R171, R180; detail B
of an order stopped, log 8 and 66). -/
def Obligations.HostTransfersOfABandEnd : Prop :=
  (∀ (e : Nat) (upsets : List Nat) (s : State) (v : BandView) (moves : List BlockMove),
     s.part.bandView e = some v → v.band.dma = .gather moves →
     (∀ blocks, blocks.length = moves.length → (moves.filterMap (moveFrame v .new)).Nodup →
       let band := { v.band with dma := .idle }
       let y := { v with ext := { v.ext with band := some band }, band }
       ∃ t p u, exec (.gatherEnd e (.read blocks) upsets) s = .next t ∧ t.part = afterBand upsets u ∧
         p = { s.part with buffer := p.buffer, table := p.table } ∧ p.bandView e = some y ∧
         (∀ i, i ≠ e → p.entry? i = s.part.entry? i) ∧
         (let q := strikeFrames upsets p
          q.bandView e = some y ∧ (RowsOrdered v.band.rows → WriteBandBegins q e y u) ∧
            (parityInUse s.part v ≠ [] → u = { q with lanes := u.lanes, table := u.table } ∧
              (∃ b, u.bandView e = some { y with ext := { y.ext with band := some b }, band := b }) ∧
              ∀ i, i ≠ e → u.entry? i = s.part.entry? i)) ∧
         (∀ f, (∀ m ∈ moves, moveFrame v .new m ≠ some f) → p.frame f = s.part.frame f) ∧
         ∀ (i : Nat) (m : BlockMove) (b : Block) (f : Nat), moves[i]? = some m → blocks[i]? = some b →
           moveFrame v .new m = some f → f < s.part.buffer.frames.length → (s.part.frame f).state ≠ .unfit →
           p.frame f = { s.part.frame f with
             state := .loaded, block := b, trailer := freshTrailer v.stripe m.slot b, upset := false }) ∧
     (∃ t u, exec (.gatherEnd e .fault upsets) s = .next t ∧ t.part = afterBand upsets u ∧
       (u.bandView e).map (·.ext.stop) = some (some (v.ext.stop.getD .hostMemoryFault)) ∧
       (u.bandView e).map (·.band) =
         some { v.band with dma := .idle, rows := v.band.rows.map fun w => { w with phase := .done false } })) ∧
  (∀ (e : Nat) (upsets : List Nat) (s : State) (v : BandView) (moves : List BlockMove),
     s.part.bandView e = some v → v.band.dma = .delivery moves →
     (∃ t u, exec (.deliveryEnd e .good upsets) s = .next t ∧ t.part = afterBand upsets u ∧
       DeliveryEnds (strikeFrames upsets s.part) e v moves false u) ∧
     ∀ n, ∃ t u, exec (.deliveryEnd e (.fault n) upsets) s = .next t ∧ t.part = afterBand upsets u ∧
       DeliveryEnds (strikeFrames upsets s.part) e v (moves.take n) true u) ∧
  ∀ (e : Nat) (p : Part) (v : BandView), p.bandView e = some v →
    let ready := (v.band.rows.filter fun w => w.phase = .ready).map fun w => (w.row, w.ready)
    let delivers := v.band.granted = true ∧ v.band.dma = .idle ∧ ready ≠ [] ∧
      ∀ w ∈ v.band.rows, w.phase = .ready ∨ ∃ c, w.phase = .done c
    let u := beginDelivery e p
    (delivers → u.buffer = p.buffer ∧ u.lanes = p.lanes ∧ ∃ moves, MovesFor v ready moves ∧
      (u.bandView e).map (·.band) =
        some (if moves = [] then
            { v.band with
              rows := v.band.rows.map fun w => if w.phase = .ready then { w with phase := .done true } else w }
          else { v.band with dma := .delivery moves })) ∧
      (¬delivers → u = p) ∧ BandEnds p e v (endOrderBand e p)

/-- A reconstruction job of a READ row that meets no parity error places the wanted blocks with fresh trailers, counts
them as reconstructed and makes the row ready; of a sweep band it places them and, the last of the band's, goes on to
the band's writes: behind their gate one WRITE for each run of rows to write, and one for each mend (R36, R46, R57,
R106, R107, R170). A parity error ends a job without its outputs: those it had written are left without a trailer and
unfit (which, log 59; of several inputs struck, log 63; of outputs struck within the job's last step, log 65), an
order's row takes no further part, and a sweep band is discarded: BUFFER_PARITY is latched, the sweep halts, the band's
requests that still wait in their queues stay there and go out as usual (R64; log 42), and once no request is outstanding
its frames are released (R47, R58, R59). -/
def Obligations.AReconstructionJobPlacesTheWantedBlocks : Prop :=
  (∀ (row : Nat) (upsets : List Nat) (s : State),
    let p := strikeFrames upsets s.part
    (∀ e v w j, jobRow s.part e row false [] = some (v, w, j) →
      let outputs := framesOf v.band.places row .old j.wanted
      let bad := p.jobErrors (framesOf v.band.places row .old (reconstructionInputs v.g v.stripe j.erased)) outputs upsets
      (∀ r, bad = [] → reconstructRow (p.rowView v.g v.stripe v.band.places row j.erased) = some r →
        ∃ (t : State) (u : Part), exec (.reconstructionJobEnd (.orderBand e) row upsets) s = .next t ∧
          t.part = afterBand upsets (u.modRow e row fun x => { x with phase := .ready, ready := w.want, job := none }) ∧
          (u.extent? e).map (·.reconstructed) = some (v.ext.reconstructed + j.wanted.length) ∧
          u.buffer = (placeOutputs v row .old (j.wanted.map fun x => (x, r.ofRole (v.g.role v.stripe x))) p).buffer) ∧
      (bad ≠ [] → Answers (.reconstructionJobEnd (.orderBand e) row upsets) s
        (afterBand upsets (frameError (.orderBand e) row bad (spoilOutputs bad outputs p))))) ∧
    (∀ place g c b j, s.part.geometry.profile = some g → s.part.context? place = some c → c.band = some b →
      b.jobs.find? (fun x => x.row = row) = some j →
      let outputs := sweepOutputs b row j.wanted
      let bad := p.jobErrors (framesOf b.places row .old (reconstructionInputs g c.stripe j.erased)) outputs upsets
      let left := b.jobs.filter fun x => x.row ≠ row
      (∀ r, bad = [] → reconstructRow (p.rowView g c.stripe b.places row j.erased) = some r →
        let done := (placeSweepOutputs g c.stripe row b r j.wanted p).modSweepBand place fun x => { x with jobs := left }
        ∃ t, exec (.reconstructionJobEnd (.sweepBand place) row upsets) s = .next t ∧
          t.part = afterBand upsets (if left = [] then writeSweepBand place done else done)) ∧
      (bad ≠ [] → Answers (.reconstructionJobEnd (.sweepBand place) row upsets) s
        (afterBand upsets (frameError (.sweepBand place) row bad (spoilOutputs bad outputs
          (p.modSweepBand place fun x => { x with jobs := left })))))) ∧
    ∀ bad outputs f, f < s.part.buffer.frames.length →
      let q := spoilOutputs bad outputs s.part
      let spoiled := (q.frame f).state = .unfit ∧ (q.frame f).trailer = []
      (f ∈ outputs → f ∈ bad → spoiled) ∧ (f ∈ outputs → q.frame f = s.part.frame f ∨ spoiled) ∧
        (f ∉ outputs → q.frame f = s.part.frame f)) ∧
  ∀ (place : Nat) (p : Part) (g : Profile) (c : Context) (b : SweepBand), p.geometry.profile = some g →
    p.context? place = some c → c.band = some b →
    (let bad := b.gateFrames.filter p.parityError
     let target := targetWrites g p place c.stripe b
     let mends := mendWrites g p place c.stripe b
     (bad ≠ [] → writeSweepBand place p = frameError (.sweepBand place) b.row0 bad p) ∧
       (bad = [] → writeSweepBand place p =
         handRequests (target ++ mends) (p.modSweepBand place fun x => { x with stage := .writing })) ∧
       (∀ q ∈ target ++ mends, q.owner = .sweepBand place ∧ q.write = true ∧ q.lane = (p.member q.slot).lane ∧
         q.lba = g.base + c.stripe * g.k + q.row ∧ q.retries = 0 ∧ q.origin = .first) ∧
       (b.writeRows.Pairwise (· < ·) →
         (∀ r, r ∈ b.writeRows ↔ ∃ q ∈ target, q.row ≤ r ∧ r < q.row + q.count) ∧
         ∀ q ∈ target, q.slot = b.target ∧ q.mend = false ∧ q.row + q.count ∉ b.writeRows ∧
           (∀ r, r + 1 = q.row → r ∉ b.writeRows) ∧
           q.frames = (List.range q.count).filterMap fun i => frameAt b.places (q.row + i) b.target .new) ∧
       mends.map (fun q => (q.row, q.slot)) = b.mends ∧
       ∀ q ∈ mends, q.mend = true ∧ q.count = 1 ∧ q.frames = framesOf b.places q.row .old [q.slot]) ∧
    (p.sweep.state = .sweeping ∨ p.sweep.state = .retrying ∨ p.sweep.state = .pausing ∨ p.sweep.state = .halting →
      ∀ row bad,
        let u := frameError (.sweepBand place) row bad p
        u.sweepBand? place = some { b with stage := .discarded, jobs := [] } ∧ u.sweep.state = .halting ∧
          u.sweep.haltSet = setBit p.sweep.haltSet HaltCause.bufferParity.bit ∧
          u.alerts.pending = setBit p.alerts.pending Cause.bufferParity.bit ∧
          u.alerts.latched = setBit p.alerts.latched Condition.bufferParity.bit ∧
          u.lanes = p.lanes ∧ u.locks = p.locks ∧
          ∀ f ∈ bad, f < p.buffer.frames.length → (u.frame f).state = .unfit) ∧
    (b.stage = .discarded → p.outstanding (.sweepBand place) = [] → p.sweep.state ≠ .abandoning →
      endSweepBand place p =
        (releaseFrames (.sweepBand place) p).modContext place fun x => { x with band := none })

/-- A delta job with every old value usable places the new parity of R43 and its row goes on to its writes; with an erased
input it moves the row to the full-row method, which reads the unwritten data not yet read (R43, R46, R47, R174). A row's
writes go through its gate: with an error in one of their frames none is handed over and the row is struck; otherwise the
written data, the computed parity and a rebuilt TARGET block go out, one WRITE of one sector each, members ABSENT left out.
The row is completed when the last of them has completed (R57, R59, R176, R177; of several inputs of a job struck, log 63;
of outputs struck within its last step, log 65). -/
def Obligations.ADeltaJobPlacesTheNewParity : Prop :=
  (∀ (e row : Nat) (upsets : List Nat) (s : State) (v : BandView) (w : RowWork) (j : RowJob),
    jobRow s.part e row true [.delta] = some (v, w, j) →
    let p := strikeFrames upsets s.part
    let outputs := framesOf v.band.places row .new j.parity
    let bad := p.jobErrors
      (framesOf v.band.places row .old (w.want ++ j.parity) ++ framesOf v.band.places row .new w.want) outputs upsets
    let terms := deltaTerms v p row w.want
    let newP := deltaP (p.blockAt v.band.places row (v.g.pSlot v.stripe) .old) terms
    let newQ := deltaQ (p.blockAt v.band.places row (v.g.qSlot v.stripe) .old) terms
    (j.erased = [] → bad = [] →
      ∃ t, exec (.deltaJobEnd e row upsets) s = .next t ∧
        t.part = afterBand upsets (writeRow e row (placeOutputs v row .new
          (j.parity.map fun x => (x, if x = v.g.pSlot v.stripe then newP else newQ)) p))) ∧
    (j.erased = [] → bad ≠ [] →
      Answers (.deltaJobEnd e row upsets) s
        (afterBand upsets (frameError (.orderBand e) row bad (spoilOutputs bad outputs p)))) ∧
    (j.erased ≠ [] → ∃ t u, exec (.deltaJobEnd e row upsets) s = .next t ∧ t.part = afterBand upsets u ∧
      (RowsOrdered v.band.rows →
        let reads := (notWritten v w).filter fun x => canRead s.part v.ext x && !w.asked.contains x
        RowsGoOn s.part e v
          (v.band.rows.map fun x => if x.row = row then
            { w with method := .full, phase := .reading, asked := w.asked ++ reads, job := none } else x)
          (readsFor s.part e v fun x => if x.row = row then reads else []) u))) ∧
  ∀ (e : Nat) (p : Part) (v : BandView), p.bandView e = some v →
    (∀ row w, v.band.row? row = some w → RowIsWritten p e v w (writeRow e row p)) ∧
    (RowsOrdered v.band.rows →
      let quiet := fun w : RowWork => (p.outstanding (.orderBand e)).all fun q => !(q.row ≤ w.row && w.row < q.row + q.count)
      RowsGoOn p e v
        (v.band.rows.map fun w => if w.phase = .writing && quiet w then { w with phase := .done true } else w) []
        (finishWrites e p)) ∧
    (v.band.granted = true → v.record.isWrite = true → advanceOrderBand p e =
      endOrderBand e (finishWrites e (advanceReconstructions e (advanceFulls e (advanceDeltas e p)))))

/-- A full-row job places P and Q of the row as it will stand, the written blocks from the host and the others as read
or, with reconstruction, as rebuilt; its row goes on to its writes. With three or more slots erased nothing of the row
is written and it is counted as lost. A parity error ends either job without its outputs (R44, R45, R47, R175; of
several inputs struck, log 63; of outputs struck within the job's last step, log 65). The rows of a WRITE band with
all their reads in hand over their jobs: by DELTA with its erased inputs named, by FULL when the unwritten data are
GOOD; any other FULL row reads the rest of its row and hands over the job with reconstruction (R174, R175; a DELTA row
left with no parity, log 50). -/
def Obligations.AFullRowJobPlacesTheNewParity : Prop :=
  (∀ (e row : Nat) (upsets : List Nat) (s : State) (v : BandView) (w : RowWork) (j : RowJob),
    let p := strikeFrames upsets s.part
    let at_ := framesOf v.band.places row
    let ends := fun bad outputs => afterBand upsets (frameError (.orderBand e) row bad (spoilOutputs bad outputs p))
    let parityOf := fun data => j.parity.map fun x =>
      (x, if x = v.g.pSlot v.stripe then parityP data else parityQ data)
    (jobRow s.part e row true [.full, .fullNoReads] = some (v, w, j) →
      let outputs := at_ .new j.parity
      let bad := p.jobErrors (at_ .new w.want ++ at_ .old (unwritten v w)) outputs upsets
      (bad = [] → ∃ t, exec (.fullRowJobEnd e row upsets) s = .next t ∧
        t.part = afterBand upsets (writeRow e row (placeOutputs v row .new
          (parityOf ((v.g.dataSlots v.stripe).map fun x =>
            p.blockAt v.band.places row x (if w.want.contains x then .new else .old))) p))) ∧
      (bad ≠ [] → Answers (.fullRowJobEnd e row upsets) s (ends bad outputs))) ∧
    (jobRow s.part e row true [.fullReconstruction] = some (v, w, j) →
      (j.erased.length < 3 →
        let outputs := at_ .new j.parity ++ at_ .old j.wanted
        let bad := p.jobErrors (at_ .old (reconstructionInputs v.g v.stripe j.erased) ++ at_ .new w.want ++
          at_ .old (without (unwritten v w) j.erased)) outputs upsets
        (∀ r, bad = [] → reconstructRow (p.rowView v.g v.stripe v.band.places row j.erased) = some r →
          let back := placeOutputs v row .old (j.wanted.map fun x => (x, r.ofRole (v.g.role v.stripe x))) p
          ∃ t, exec (.fullRowReconstructionJobEnd e row upsets) s = .next t ∧
            t.part = afterBand upsets (writeRow e row (placeOutputs v row .new
              (parityOf ((v.g.dataSlots v.stripe).map fun x =>
                if w.want.contains x then p.blockAt v.band.places row x .new
                else r.ofRole (v.g.role v.stripe x))) back))) ∧
        (bad ≠ [] → Answers (.fullRowReconstructionJobEnd e row upsets) s (ends bad outputs))) ∧
      (3 ≤ j.erased.length →
        ∃ t u, exec (.fullRowReconstructionJobEnd e row upsets) s = .next t ∧ t.part = afterBand upsets u ∧
          (u.extent? e).map (·.lost) = some (v.ext.lost + 1) ∧ u.buffer = s.part.buffer ∧ u.lanes = s.part.lanes ∧
          ((u.bandView e).bind (·.band.row? row)).map (·.phase) = some (.done true)))) ∧
  ∀ (e : Nat) (p : Part) (v : BandView), p.bandView e = some v → RowsOrdered v.band.rows →
    (parityInUse p v ≠ [] →
      WriteBandGoesOn p e v (advanceReconstructions e (advanceFulls e (advanceDeltas e p)))) ∧
    ∀ w ∈ v.band.rows, parityInUse p v = [] → (∀ x ∈ w.asked, w.result? x = some .good) →
      advanceDelta e v p w = writeRow e w.row p

/-! ### The sweep's own steps -/

/-- A context launches in the lowest free place with a staging reservation: in SWEEPING for stripe N, which moves on, with
attempt 1; in RETRYING for the oldest untaken entry, which it takes, with that entry's attempt and reason. It asks for its
lock, and granted at once is BANDING (R84, R100 to R102, R128). -/
def Obligations.AContextLaunchesInTheLowestFreePlace : Prop :=
  ∀ (s : State) (place : Nat), lowestIndex Option.isNone s.part.sweep.window = some place →
    s.part.mayLaunch = true →
    (s.part.sweep.state = .sweeping → s.part.sweep.next < s.part.stripeCount →
      let asked := s.part.locks.request (.context place) s.part.sweep.next .exclusive
      ∃ t c, exec .contextLaunch s = .next t ∧ SameBut [.sweep, .locks] [] s t ∧ t.part.locks = asked.1 ∧
        t.part.sweep =
          { s.part.sweep with next := s.part.sweep.next + 1, window := s.part.sweep.window.set place (some c) } ∧
        c.stripe = s.part.sweep.next ∧ c.attempt = 1 ∧ c.entryReason = none ∧ c.source = .main ∧
        c.reserved = true ∧ c.settled = false ∧ c.nextRow = 0 ∧ c.band = none ∧
        c.phase = (if asked.2 = [] then .lockWait else .banding)) ∧
    (∀ entry list, s.part.sweep.state = .retrying → takeOldest place s.part.retry.onChip = some (entry, list) →
      let asked := s.part.locks.request (.context place) entry.stripe .exclusive
      ∃ t c, exec .contextLaunch s = .next t ∧ SameBut [.sweep, .locks, .retry] [] s t ∧ t.part.locks = asked.1 ∧
        t.part.retry = { s.part.retry with onChip := list } ∧ ({ entry with taken := some place } : RetryEntry) ∈ list ∧
        t.part.sweep = { s.part.sweep with window := s.part.sweep.window.set place (some c) } ∧
        c.stripe = entry.stripe ∧ c.attempt = entry.attempt ∧ c.entryReason = some entry.reason ∧ c.source = .retry ∧
        c.reserved = true ∧ c.nextRow = 0 ∧ c.phase = (if asked.2 = [] then .lockWait else .banding))

/-- A band launches for a BANDING context in a pass, when none in a lower place waits to launch, of as many rows as
the least of the profile's band rows, the rows left, the remaining budget and what the FREE sweep frames hold; it
takes its frames, the budget falls, the next row moves, and each reader is handed one READ of class SWEEP for all its
rows. With no row, or behind a lower place that waits, it does not launch and nothing changes (R51, R103, R104, R151;
which frames, log 16; each launch a step of its own, log 37; a row fits only a budget of at least 1). -/
def Obligations.ABandLaunchesWithTheRowsThatFit : Prop :=
  ∀ (s : State) (place : Nat) (g : Profile) (c : Context), s.part.geometry.profile = some g →
    s.part.context? place = some c → s.part.sweep.inPass = true → c.phase = .banding → c.band = none →
    c.nextRow < g.k →
    let readers := g.slots.filter fun x => (s.part.member x).state = .online
    let count := min (min g.bandRows (g.k - c.nextRow))
      (min s.part.pace.remaining (s.part.freeFrames .sweep / (readers.length + 1)))
    let grant := s.part.grantable .sweep ((readers.length + 1) * count)
    let waits := fun i => ∃ d, s.part.context? i = some d ∧ d.phase = .banding ∧ d.band = none ∧ d.nextRow < g.k
    (1 ≤ count → (∀ i, i < place → ¬waits i) →
      ∃ t u b, exec (.bandLaunch place) s = .next t ∧ t.part = finish (settleWork (advanceBands [] u)) ∧
        u.pace = { s.part.pace with remaining := s.part.pace.remaining - count } ∧
        u.context? place = some { c with band := some b, nextRow := c.nextRow + count } ∧
        b.row0 = c.nextRow ∧ b.count = count ∧ b.readers = readers ∧ b.target = s.part.targetSlot.getD 0 ∧
        b.stage = .reading ∧ b.results = [] ∧ b.jobs = [] ∧ b.writeRows = [] ∧ b.mends = [] ∧
        grant.length = (readers.length + 1) * count ∧
        (∀ i ∈ grant,
          u.frame i = { s.part.frame i with owner := some (.sweepBand place), state := .reserved }) ∧
        (∀ i, i ∉ grant → u.frame i = s.part.frame i) ∧
        (∀ i, i < count →
          (∀ d x, readers[d]? = some x →
            frameAt b.places (c.nextRow + i) x .old = grant[(readers.length + 1) * i + d]?) ∧
          frameAt b.places (c.nextRow + i) b.target .new = grant[(readers.length + 1) * i + readers.length]?) ∧
        ∀ l, l < s.part.lanes.length →
          (u.lane l).orderQueue = (s.part.lane l).orderQueue ∧
          (u.lane l).sweepQueue = (s.part.lane l).sweepQueue ++
            (readers.filter fun x => (s.part.member x).lane = l).map fun x =>
              { owner := .sweepBand place, write := false, slot := x, lane := l,
                lba := g.base + c.stripe * g.k + c.nextRow, count, row := c.nextRow,
                frames := (List.range count).filterMap fun i => frameAt b.places (i + c.nextRow) x .old,
                mend := false, retries := 0, origin := .first }) ∧
    (count = 0 ∨ (∃ i, i < place ∧ waits i) → exec (.bandLaunch place) s = .next s)

/-- PAUSING with no band in flight and no settle under way becomes PAUSED: every context gives up its lock or its
request and keeps its records, a checkpoint is asked for, again-pending with a write in flight, and every waiting
PAUSE completes with OK, W and PAUSED. HALTING becomes HALTED in the same way: SWEEP_HALTED is raised, every waiting
PAUSE completes with HALTED, and every context keeps only its stripe, attempt, the source they give, and settled yes or
no (a settled one's phase, log 70); with the halt set emptied meanwhile, the sweep leaves HALTED at once (R91, R112,
R114, R118, R119; the order of the places, log 53; a load in progress, log 52). -/
def Obligations.TheSweepComesToRest : Prop :=
  ∀ s : State, s.part.sweepSettled = true → s.part.retry.joins = [] →
    (∀ e ∈ s.part.sweep.pauseWait, ∃ r, s.part.entry? e = some { record := r, work := .waiting }) →
    let places := (List.range 4).filter fun i => (s.part.context? i).isSome
    let locks := places.foldl (fun x i => x.givenUp (.context i)) s.part.locks
    let asked := fun t : State =>
      (s.part.store.write = none → s.part.isLatched .checkpointFault = false → s.part.geometry.profile ≠ none →
        ∃ w, t.part.store.write = some w ∧ w.resume = s.part.resumePoint ∧ w.code = codeActive) ∧
      (s.part.store.write ≠ none → t.part.store = { s.part.store with again := true })
    (s.part.sweep.state = .pausing →
      ∃ t v, exec .enterPaused s = .next t ∧ t.part = finish (settleWork v) ∧ v.locks = locks ∧
        (∀ i c, i < 4 → s.part.context? i = some c → ∃ phase, v.context? i = some { c with phase }) ∧
        t.part.sweep.state = .paused ∧ t.part.sweep.pauseWait = [] ∧
        t.part.sweep.watermark = s.part.sweep.watermark ∧
        (∀ e ∈ s.part.sweep.pauseWait, Finished t e .ok (BitVec.ofNat 64 s.part.sweep.watermark) 5) ∧ asked t) ∧
    (s.part.sweep.state = .halting → s.part.sweep.haltSet ≠ 0 →
      ∃ t, exec .enterHalted s = .next t ∧ t.part.locks = locks ∧
        (∀ i c, i < 4 → s.part.context? i = some c →
          ∃ phase, (c.settled = false → phase = .lockWait) ∧
            (c.settled = true → s.part.locks.waits (.context i) = false → phase = c.phase) ∧ t.part.context? i =
            some { stripe := c.stripe, attempt := c.attempt, source := if c.attempt = 1 then .main else .retry,
                   entryReason := none, phase, settled := c.settled, nextRow := 0, lostRows := 0, mendedRows := 0,
                   mendFailed := false, involved := 0, deferral := none, reserved := false, band := none,
                   joining := false }) ∧
        t.part.sweep.state = .halted ∧ t.part.sweep.pauseWait = [] ∧
        t.part.sweep.haltSet = s.part.sweep.haltSet ∧ t.part.sweep.watermark = s.part.sweep.watermark ∧
        (∀ e ∈ s.part.sweep.pauseWait, Finished t e .ok (BitVec.ofNat 64 s.part.sweep.watermark) 7) ∧
        t.part.alerts.pending.getLsbD Cause.sweepHalted.bit = true ∧ t.part.reservations = 0 ∧ asked t) ∧
    (s.part.sweep.state = .halting → s.part.sweep.haltSet = 0 →
      ∃ t, exec .enterHalted s = .next t ∧ t.part.sweep.pauseWait = [] ∧
        t.part.alerts.pending.getLsbD Cause.sweepHalted.bit = true ∧
        (∀ e ∈ s.part.sweep.pauseWait, Finished t e .ok (BitVec.ofNat 64 s.part.sweep.watermark) 7) ∧
        (s.part.targetSlot = none ∨ s.part.condition = .failed → t.part.sweep.state = .idle) ∧
        (s.part.targetSlot ≠ none → s.part.condition ≠ .failed →
          (s.part.loading = true → t.part.sweep.state = .halted) ∧
          (s.part.loading = false → s.part.sweep.pass = .main → s.part.sweep.watermark < s.part.stripeCount →
            t.part.sweep.state = if s.part.engine.state = .unbinding then .pausing else .sweeping)))

/-- A window end updates B, the counts and the mode by the table of the mode, with FIXED B becomes C; the next window starts
with the remaining budget B (R153 to R157). A next set that waits is installed after the update: the updated B and its B0
are clamped into its [F, C] (R157, R160). Nothing but the pacing changes in this step: a band launch that waits for the
window is a BAND_LAUNCH step of its own (log 37). -/
def Obligations.AWindowEndUpdatesTheBudget : Prop :=
  ∀ (s : State) (x : PaceSet), s.part.pace.timer ≠ none → s.part.pace.installed = some x →
    let B := s.part.pace.budget
    let b := s.part.backlog
    let side : Bool → Nat := fun below => if s.part.pace.below = below ∧ 0 < s.part.pace.drift
      then s.part.pace.drift + 1 else 1
    ∃ t, exec .windowTimerExpiry s = .next t ∧ SameBut [.pace] [] s t ∧ t.part.pace.lastBacklog = b ∧
      t.part.pace.remaining = t.part.pace.budget ∧ t.part.pace.next = none ∧
      (∀ y, s.part.pace.next = some y →
        let updated :=
          if x.adaptive = false then x.ceiling
          else if x.high < b then max x.floor (if s.part.pace.track then B - (B + 7) / 8 else B / 2)
          else if b < x.low then min x.ceiling (if s.part.pace.track then B + max 1 (B / 8) else 2 * B)
          else B
        t.part.pace.installed = some { y with initial := max y.floor (min y.ceiling y.initial) } ∧
          t.part.pace.timer = some y.window ∧ t.part.pace.track = false ∧ t.part.pace.inBand = 0 ∧
          t.part.pace.drift = 0 ∧ t.part.pace.below = false ∧
          t.part.pace.budget = max y.floor (min y.ceiling updated)) ∧
      (s.part.pace.next = none → t.part.pace.installed = some x ∧ t.part.pace.timer = some x.window ∧
        (x.adaptive = false → t.part.pace.budget = x.ceiling ∧ t.part.pace.track = s.part.pace.track ∧
          t.part.pace.inBand = s.part.pace.inBand ∧ t.part.pace.drift = s.part.pace.drift) ∧
        (x.adaptive = true → s.part.pace.track = false → (s.part.pace.drift = 0 → t.part.pace.drift = 0) ∧
          (x.high < b → t.part.pace.budget = max x.floor (B / 2) ∧ t.part.pace.inBand = 0 ∧
            t.part.pace.track = false) ∧
          (x.low < x.high → b < x.low → t.part.pace.budget = min x.ceiling (2 * B) ∧ t.part.pace.inBand = 0 ∧
            t.part.pace.track = false) ∧
          (x.low ≤ b → b ≤ x.high → t.part.pace.budget = B ∧
            (s.part.pace.inBand + 1 ≠ 4 → t.part.pace.inBand = s.part.pace.inBand + 1 ∧ t.part.pace.track = false) ∧
            (s.part.pace.inBand + 1 = 4 → t.part.pace.track = true ∧ t.part.pace.inBand = 0 ∧
              t.part.pace.drift = 0 ∧ t.part.pace.below = false))) ∧
        (x.adaptive = true → s.part.pace.track = true → (s.part.pace.inBand = 0 → t.part.pace.inBand = 0) ∧
          (x.high < b → t.part.pace.budget = max x.floor (B - (B + 7) / 8) ∧ t.part.pace.below = false ∧
            (t.part.pace.drift, t.part.pace.track) =
              (if side false = 3 then (0, false) else (side false, true)) ∧
            (side false = 3 → t.part.pace.inBand = 0)) ∧
          (x.low < x.high → b < x.low → t.part.pace.budget = min x.ceiling (B + max 1 (B / 8)) ∧
            t.part.pace.below = true ∧
            (t.part.pace.drift, t.part.pace.track) = (if side true = 3 then (0, false) else (side true, true)) ∧
            (side true = 3 → t.part.pace.inBand = 0)) ∧
          (x.low ≤ b → b ≤ x.high → t.part.pace.budget = B ∧ t.part.pace.drift = 0 ∧ t.part.pace.track = true)))

/-! ### The Retry List, the log and the checkpoint slots -/

/-- A join is written as 16 bytes at the tail of the extension, or with the extension full refused; its write, ended well,
enters its entry there, raising RETRY_SPILL at the first of a sweep, and its context's settle goes on; a fault refuses the
join, latching RETRY_OVERFLOW with AREA_FAULT. A refill read puts its entry on-chip as the newest; a bad entry or a fault
latches RETRY_OVERFLOW, and the entry stays in the extension. After an emptying the result of either is discarded. A FULL
refusal while RETRY_OVERFLOW is latched changes nothing in the Alert Unit (R126, R127, R129, R132, R205). The settle's steps
behind the Retry List's: a finding is staged in the place kept for it, W advances past the settled stripes, the lock is
released, the settlement is counted and at the interval a checkpoint asked for, a retry context leaves the window, and the
pass may end: at W = S to RETRYING while the list holds an entry and to FINISHING otherwise, the retry pass when list and
window are empty (R109, R110, R112, R113; log 17). A refill read begins when a place is FREE, the extension holds an entry
and is not busy, no AREA_FAULT is latched, and the engine may begin DMA: the place becomes RESERVED, and the entry stays
in the extension (R129, R185; in UNBINDING, log 39); joins that wait go first (log 25). -/
def Obligations.JoinsAndRefillsMoveEntries : Prop :=
  (∀ s : State,
    let ended := s.part.onRetry fun r => { r with busy := .idle }
    let written := s.part.onRetry fun r => { r with busy := .idle, write := none }
    (∀ j, s.part.retry.busy = .join j false →
      (∃ t u, exec (.extensionJoinWriteEnd false) s = .next t ∧
        t.part = finish (settleWork (settleRest j.place u)) ∧
        u.retry.busy = .idle ∧ u.retry.write = none ∧ u.retry.count = s.part.retry.count + 1 ∧
        u.retry.tail = (s.part.retry.tail + 1) % s.part.retry.capacity ∧ u.retry.spilled = true ∧
        (∀ x, x ∈ u.retry.onChip ↔ x ∈ s.part.retry.onChip ∧ (j.move = true → x.taken ≠ some j.place)) ∧
        (∃ low high, u.retry.range = some (low, high) ∧ low ≤ j.stripe ∧ j.stripe ≤ high ∧
          ∀ l h, 0 < s.part.retry.count → s.part.retry.range = some (l, h) → low ≤ l ∧ h ≤ high) ∧
        u.alerts.pending = (if s.part.retry.spilled then s.part.alerts.pending
          else setBit s.part.alerts.pending Cause.retrySpill.bit)) ∧
      (∃ t, exec (.extensionJoinWriteEnd true) s = .next t ∧
        t.part = finish (settleWork (refuseJoin j .areaFault written)))) ∧
    (∀ j fault, s.part.retry.busy = .join j true →
      ∃ t, exec (.extensionJoinWriteEnd fault) s = .next t ∧ t.part = finish (settleWork written)) ∧
    (∀ bytes, s.part.retry.busy = .refill true →
      ∃ t, exec (.refillReadEnd bytes) s = .next t ∧ t.part = finish (settleWork ended)) ∧
    (s.part.retry.busy = .refill false →
      (∀ b x, refillEntry s.part.stripeCount b = some x →
        ∃ t u, exec (.refillReadEnd (some b)) s = .next t ∧ t.part = finish (settleWork u) ∧
          u.retry.onChip = s.part.retry.onChip ++ [x] ∧ u.retry.count = s.part.retry.count - 1 ∧
          u.retry.head = (s.part.retry.head + 1) % s.part.retry.capacity ∧ u.retry.busy = .idle ∧
          x.taken = none ∧ x.stripe < s.part.stripeCount ∧ (x.attempt = 2 ∨ x.attempt = 3)) ∧
      ∀ bytes, bytes.bind (refillEntry s.part.stripeCount) = none →
        ∃ t, exec (.refillReadEnd bytes) s = .next t ∧
          t.part = finish (settleWork (retryOverflow .areaFault ended)))) ∧
  (∀ (fuel : Nat) (p : Part) (j : Join) (rest : List Join), p.retry.joins = j :: rest → p.retry.busy = .idle →
    p.mayBeginDma = true → p.isLatched .retryOverflow = false ∨ p.retry.detail ≠ .areaFault →
    let q := p.onRetry fun r => { r with joins := rest }
    (p.retry.count < p.retry.capacity →
      ∃ b, takeJoins (fuel + 1) p = (q.onRetry fun r =>
          { r with busy := .join j false,
                   write := some { address := r.address + BitVec.ofNat 64 (16 * r.tail), bytes := b } }) ∧
        b.length = 16 ∧ leField b 0 4 = j.stripe % 2 ^ 32 ∧ leField b 4 1 = j.attempt % 256 ∧
        leField b 5 1 = (if j.reason = .timeout then 1 else 2)) ∧
    (p.retry.capacity ≤ p.retry.count →
      let u := refuseJoin j .full q
      takeJoins (fuel + 1) p = takeJoins fuel u ∧
        (p.sweep.state ≠ .paused → p.isLatched .retryOverflow = true → u.alerts = p.alerts) ∧
        (p.sweep.state = .sweeping ∨ p.sweep.state = .retrying →
          u.isLatched .retryOverflow = true ∧ u.retry.overflow = true ∧ u.retry.detail = .full ∧
            u.retry.joins = rest ∧ u.sweep.state = .halting ∧ u.haltSetHas .retryOverflow = true ∧
            u.locks = p.locks.givenUp (.context j.place) ∧
            (p.isLatched .retryOverflow = false →
              u.alerts.pending = setBit p.alerts.pending Cause.retryOverflow.bit)))) ∧
  (∀ (place : Nat) (p : Part) (g : Profile) (c : Context), p.geometry.profile = some g → p.context? place = some c →
    p.sweep.window.length = 4 → p.sweep.state ≠ .abandoning → SettledInto g place c p (settleRest place p)) ∧
  ∀ p : Part,
    let r := (settleWork p).retry
    let may := p.engine.state = .bound ∨ (p.engine.state = .unbinding ∧
      ¬(p.engine.drained = true ∧ p.entriesInUse = [] ∧ p.sweep.atRest = true))
    let fault := p.isLatched .retryOverflow = true ∧ p.retry.detail = .areaFault
    let begins := may ∧ p.retry.busy = .idle ∧ p.retry.onChip.length < 32 ∧ 0 < p.retry.count ∧ ¬fault
    (p.retry.joins = [] →
      (begins → r = { p.retry with busy := .refill false } ∧ r.refilling = true ∧
        r.freePlaces + 1 = p.retry.freePlaces) ∧
      (¬begins → r = p.retry)) ∧
    ∀ j rest, p.retry.joins = j :: rest → may → p.retry.busy = .idle → ¬fault → p.retry.count < p.retry.capacity →
      r.busy = .join j false ∧ r.onChip = p.retry.onChip

/-- A checkpoint write that ends well leaves its slot with every byte write and publishes its record; a fault latches
CHECKPOINT_FAULT and raises its cause, and the other slot is untouched either way. The orders that wait for it complete
with its result and generation, those taken during it stay, and an again-pending write begins for them after a good end; a
fault keeps it pending; with the sweep IDLE or STARTING it is cleared instead, and those orders complete with BUSY.
FINISHING goes to DONE, the TARGET made ONLINE; ABANDONING, its window empty, to IDLE with its order
OK or CHECKPOINT_FAILED; a wait taken during the write goes on to the next one, or ends where none can begin (R13, R120,
R121, R123, R139, R142 to R145). What becomes of the waits taken during a write that ends with a fault is the model's
reading: a CHECKPOINT NOW waits on until CLEAR, the sweep's own wait ends as faulted (log 44). -/
def Obligations.ACheckpointWriteEndsWellOrFaults : Prop :=
  ∀ (s : State) (w : StoreWrite), s.part.store.write = some w → w.slot < s.part.store.slots.length →
    w.taken ≤ w.writes.length →
    (∃ t, exec (.checkpointWriteEnd .good) s = .next t ∧
      t.part.store.slot w.slot = applyWrites (s.part.store.slot w.slot) (w.writes.drop w.taken) ∧
      (∀ i, i ≠ w.slot → t.part.store.slot i = s.part.store.slot i) ∧
      t.part.store.last = some (w.generation, w.resume, w.code)) ∧
    (∀ result, result ≠ .good → ∃ t, exec (.checkpointWriteEnd result) s = .next t ∧
      (∀ left, result = .bodyFault left → t.part.store.slot w.slot = left) ∧
      (∀ tail, result = .tailFault tail → w.taken ≤ 252 → t.part.store.slot w.slot =
        applyWrites (applyWrites (s.part.store.slot w.slot) ((w.writes.take 252).drop w.taken)) (bytesAt 252 tail)) ∧
      (∀ i, i ≠ w.slot → t.part.store.slot i = s.part.store.slot i) ∧
      t.part.store.last = s.part.store.last ∧ t.part.isLatched .checkpointFault = true ∧
      t.part.alerts.pending.getLsbD Cause.checkpointFault.bit = true) ∧
    ∀ result,
      let late := s.part.store.waiters.filter (·.late)
      let next := fun x : Part => ∃ y, x.store.write = some y ∧ y.taken = 0 ∧ y.resume = x.resumePoint ∧
        some y.code = recordedState x.sweep.state
      let mayBegin := result = .good ∧ s.part.store.again = true ∧ s.part.isLatched .checkpointFault = false ∧
        s.part.geometry.profile ≠ none
      ∃ t v, exec (.checkpointWriteEnd result) s = .next t ∧ t.part = finish (settleWork v) ∧
        (s.part.store.sweepWait = none → recordedState s.part.sweep.state ≠ none →
          (∀ x ∈ s.part.store.waiters, x.late = false → (s.part.entry? x.entry).isSome = true →
            ∃ a, v.workOf x.entry = some (.completing (if result = .good then .ok else .checkpointFailed) a
              (BitVec.ofNat 64 w.generation) false) ∧ (result = .good → a = BitVec.ofNat 64 w.resume)) ∧
          (mayBegin → next v ∧ v.store.again = false ∧
            v.store.waiters = late.map (fun x => { x with late := false })) ∧
          (result ≠ .good ∨ s.part.store.again = false →
            v.store.write = none ∧ v.store.again = s.part.store.again ∧ v.store.waiters = late)) ∧
        (s.part.store.sweepWait = none → recordedState s.part.sweep.state = none → s.part.store.again = true →
          v.store.write = none ∧ v.store.again = false ∧ v.store.waiters = [] ∧
            (∀ x ∈ late, (s.part.entry? x.entry).isSome = true →
              ∃ a b, v.workOf x.entry = some (.completing .busy a b false)) ∧
            (∀ x ∈ s.part.store.waiters, x.late = false → (∀ y ∈ late, y.entry ≠ x.entry) →
              (s.part.entry? x.entry).isSome = true →
              ∃ a, v.workOf x.entry = some (.completing (if result = .good then .ok else .checkpointFailed) a
                (BitVec.ofNat 64 w.generation) false))) ∧
        (s.part.sweep.state = .finishing →
          s.part.store.sweepWait = some false ∨ (s.part.store.sweepWait = some true ∧ result ≠ .good) →
          t.part.sweep.state = .done ∧ t.part.alerts.pending.getLsbD Cause.sweepDone.bit = true ∧
            ∀ k, s.part.targetSlot = some k → (t.part.member k).state = .online) ∧
        (∀ a, s.part.sweep.state = .abandoning → s.part.sweep.abandonWait = some a →
          s.part.store.sweepWait = some false →
          (s.part.windowEmpty = false → v.sweep.state = .abandoning ∧
            v.sweep.abandonWait = some { a with wrote := some (decide (result = .good)) }) ∧
          (s.part.windowEmpty = true → (s.part.entry? a.entry).isSome = true →
            (∀ x ∈ s.part.store.waiters, x.entry ≠ a.entry) →
            t.part.sweep.state = .idle ∧ t.part.retry.onChip = [] ∧ t.part.retry.count = 0 ∧
              ∃ b, Finished t a.entry (if result = .good then .ok else .checkpointFailed)
                (BitVec.ofNat 64 a.watermark) b)) ∧
        (s.part.sweep.state = .finishing ∨ s.part.sweep.state = .abandoning → s.part.store.sweepWait = some true →
          mayBegin → v.sweep.state = s.part.sweep.state ∧ v.store.sweepWait = some false ∧ next v) ∧
        ∀ a, s.part.sweep.state = .abandoning → s.part.sweep.abandonWait = some a → a.wrote = none →
          s.part.store.sweepWait = some true → result ≠ .good →
          (s.part.windowEmpty = false → v.sweep.state = .abandoning ∧ v.sweep.abandonWait = some a ∧
            v.store.sweepWait = some true) ∧
          (s.part.windowEmpty = true → (s.part.entry? a.entry).isSome = true →
            (∀ x ∈ s.part.store.waiters, x.entry ≠ a.entry) →
            t.part.sweep.state = .idle ∧ ∃ b, Finished t a.entry .checkpointFailed (BitVec.ofNat 64 a.watermark) b)

/-- The staging head is written to the log entry at the write index, its body first: bytes 8 to 63, in the layout of a
finding; then its header, byte 0 on, with the sequence number and the kind flags; with the header the entry counts: the
staging head goes, the write index and the sequence number move on. A full log is not written: it opens an episode and
raises LOG_FULL once. A fault of either write latches LOG_FAULT, raises its cause, and the finding stays staged (R134 to
R137, R208). -/
def Obligations.ALogEntryIsBodyThenHeader : Prop :=
  ∀ s : State,
    let failed := fun t : State => SameBut [.findings, .alerts] [] s t ∧
      t.part.findings = { s.part.findings with writer := .idle, write := none } ∧ t.part.isLatched .logFault = true ∧
      t.part.alerts.pending = setBit s.part.alerts.pending Cause.logFault.bit
    (s.part.findings.writer = .body →
      (∃ t, exec (.logBodyWriteEnd false) s = .next t ∧ SameBut [.findings] [] s t ∧
        t.part.findings = { s.part.findings with writer := .header, write := t.part.findings.write } ∧
        ∀ a n x rest, s.part.findings.area = some (a, n) → s.part.findings.staged = x :: rest →
          ∃ b, t.part.findings.write =
              some { address := a + BitVec.ofNat 64 (64 * s.part.findings.writeIndex), bytes := b } ∧
            b.length = 8 ∧ leField b 0 4 = s.part.findings.sequence % 2 ^ 32 ∧
            leField b 4 1 = (if x.lostRows = 0 then 0 else 1) + (if x.mendedRows = 0 then 0 else 2) +
              (if x.mendFailed = true then 4 else 0) + (if x.deferral = none then 0 else 8) ∧
            b.drop 5 = [0, 0, 0]) ∧
      ∃ t, exec (.logBodyWriteEnd true) s = .next t ∧ failed t) ∧
    (s.part.findings.writer = .header →
      (∀ a n, s.part.findings.area = some (a, n) → s.part.retry.joins = [] →
        ∃ t, exec (.logHeaderWriteEnd false) s = .next t ∧ t.part.findings.staged = s.part.findings.staged.drop 1 ∧
          t.part.findings.writeIndex = (s.part.findings.writeIndex + 1) % n ∧
          t.part.findings.lastSequence = s.part.findings.sequence ∧
          t.part.findings.sequence =
            (if s.part.findings.sequence = 2 ^ 32 - 1 then 1 else s.part.findings.sequence + 1)) ∧
      ∃ t, exec (.logHeaderWriteEnd true) s = .next t ∧ failed t) ∧
    ∀ a n x rest, s.part.mayBeginDma = true → s.part.isLatched .logFault = false → s.part.findings.writer = .idle →
      s.part.findings.area = some (a, n) → s.part.findings.staged = x :: rest →
      let full := (s.part.findings.writeIndex + n - s.part.regs.logTaken.toNat % n) % n = n - 1
      (¬full → ∃ b, startLog s.part = (s.part.onFindings fun f =>
          { f with writer := .body, episode := false,
                   write := some { address := a + BitVec.ofNat 64 (64 * f.writeIndex) + 8, bytes := b } }) ∧
        b.length = 56 ∧ leField b 0 4 = x.stripe % 2 ^ 32 ∧ leField b 4 1 = (if x.pass = .main then 0 else 1) ∧
        leField b 5 1 = x.attempt % 256 ∧
        leField b 6 1 = (match x.deferral with
          | none => 0
          | some .timeout => 1
          | some .notReady => 2) ∧
        leField b 8 8 = x.lostRows.toNat ∧ leField b 16 8 = x.mendedRows.toNat ∧
        leField b 24 4 = x.involved.toNat ∧ b.drop 28 = List.replicate 28 0) ∧
      (full → s.part.findings.episode = true → startLog s.part = s.part) ∧
      (full → s.part.findings.episode = false →
        startLog s.part = raiseCause .logFull (s.part.onFindings fun f => { f with episode := true }))
end

