-- ==== Sys2Proof/Laws/State.lean ====
section
/-! SUPPORT. One lemma per field per block update, true by rfl and tagged @[simp], so that no proof unfolds a record
update; and the same for the queue. -/

namespace Sys2Proof.Machine

@[simp] theorem Part.onRegs_regs (p : Part) (f : Registers → Registers) : (p.onRegs f).regs = f p.regs := rfl
@[simp] theorem Part.onRegs_engine (p : Part) (f : Registers → Registers) : (p.onRegs f).engine = p.engine := rfl
@[simp] theorem Part.onRegs_intake (p : Part) (f : Registers → Registers) : (p.onRegs f).intake = p.intake := rfl
@[simp] theorem Part.onRegs_table (p : Part) (f : Registers → Registers) : (p.onRegs f).table = p.table := rfl
@[simp] theorem Part.onRegs_status (p : Part) (f : Registers → Registers) : (p.onRegs f).status = p.status := rfl
@[simp] theorem Part.onRegs_alerts (p : Part) (f : Registers → Registers) : (p.onRegs f).alerts = p.alerts := rfl
@[simp] theorem Part.onRegs_geometry (p : Part) (f : Registers → Registers) : (p.onRegs f).geometry = p.geometry := rfl
@[simp] theorem Part.onRegs_buffer (p : Part) (f : Registers → Registers) : (p.onRegs f).buffer = p.buffer := rfl
@[simp] theorem Part.onRegs_lanes (p : Part) (f : Registers → Registers) : (p.onRegs f).lanes = p.lanes := rfl
@[simp] theorem Part.onRegs_locks (p : Part) (f : Registers → Registers) : (p.onRegs f).locks = p.locks := rfl
@[simp] theorem Part.onRegs_sweep (p : Part) (f : Registers → Registers) : (p.onRegs f).sweep = p.sweep := rfl
@[simp] theorem Part.onRegs_retry (p : Part) (f : Registers → Registers) : (p.onRegs f).retry = p.retry := rfl
@[simp] theorem Part.onRegs_findings (p : Part) (f : Registers → Registers) : (p.onRegs f).findings = p.findings := rfl
@[simp] theorem Part.onRegs_store (p : Part) (f : Registers → Registers) : (p.onRegs f).store = p.store := rfl
@[simp] theorem Part.onRegs_pace (p : Part) (f : Registers → Registers) : (p.onRegs f).pace = p.pace := rfl
@[simp] theorem Part.onRegs_freeCount (p : Part) (f : Registers → Registers) : (p.onRegs f).freeCount = p.freeCount := rfl

@[simp] theorem Part.onEngine_regs (p : Part) (f : Engine → Engine) : (p.onEngine f).regs = p.regs := rfl
@[simp] theorem Part.onEngine_engine (p : Part) (f : Engine → Engine) : (p.onEngine f).engine = f p.engine := rfl
@[simp] theorem Part.onEngine_intake (p : Part) (f : Engine → Engine) : (p.onEngine f).intake = p.intake := rfl
@[simp] theorem Part.onEngine_table (p : Part) (f : Engine → Engine) : (p.onEngine f).table = p.table := rfl
@[simp] theorem Part.onEngine_status (p : Part) (f : Engine → Engine) : (p.onEngine f).status = p.status := rfl
@[simp] theorem Part.onEngine_alerts (p : Part) (f : Engine → Engine) : (p.onEngine f).alerts = p.alerts := rfl
@[simp] theorem Part.onEngine_geometry (p : Part) (f : Engine → Engine) : (p.onEngine f).geometry = p.geometry := rfl
@[simp] theorem Part.onEngine_buffer (p : Part) (f : Engine → Engine) : (p.onEngine f).buffer = p.buffer := rfl
@[simp] theorem Part.onEngine_lanes (p : Part) (f : Engine → Engine) : (p.onEngine f).lanes = p.lanes := rfl
@[simp] theorem Part.onEngine_locks (p : Part) (f : Engine → Engine) : (p.onEngine f).locks = p.locks := rfl
@[simp] theorem Part.onEngine_sweep (p : Part) (f : Engine → Engine) : (p.onEngine f).sweep = p.sweep := rfl
@[simp] theorem Part.onEngine_retry (p : Part) (f : Engine → Engine) : (p.onEngine f).retry = p.retry := rfl
@[simp] theorem Part.onEngine_findings (p : Part) (f : Engine → Engine) : (p.onEngine f).findings = p.findings := rfl
@[simp] theorem Part.onEngine_store (p : Part) (f : Engine → Engine) : (p.onEngine f).store = p.store := rfl
@[simp] theorem Part.onEngine_pace (p : Part) (f : Engine → Engine) : (p.onEngine f).pace = p.pace := rfl
@[simp] theorem Part.onEngine_freeCount (p : Part) (f : Engine → Engine) : (p.onEngine f).freeCount = p.freeCount := rfl

@[simp] theorem Part.onIntake_regs (p : Part) (f : Intake → Intake) : (p.onIntake f).regs = p.regs := rfl
@[simp] theorem Part.onIntake_engine (p : Part) (f : Intake → Intake) : (p.onIntake f).engine = p.engine := rfl
@[simp] theorem Part.onIntake_intake (p : Part) (f : Intake → Intake) : (p.onIntake f).intake = f p.intake := rfl
@[simp] theorem Part.onIntake_table (p : Part) (f : Intake → Intake) : (p.onIntake f).table = p.table := rfl
@[simp] theorem Part.onIntake_status (p : Part) (f : Intake → Intake) : (p.onIntake f).status = p.status := rfl
@[simp] theorem Part.onIntake_alerts (p : Part) (f : Intake → Intake) : (p.onIntake f).alerts = p.alerts := rfl
@[simp] theorem Part.onIntake_geometry (p : Part) (f : Intake → Intake) : (p.onIntake f).geometry = p.geometry := rfl
@[simp] theorem Part.onIntake_buffer (p : Part) (f : Intake → Intake) : (p.onIntake f).buffer = p.buffer := rfl
@[simp] theorem Part.onIntake_lanes (p : Part) (f : Intake → Intake) : (p.onIntake f).lanes = p.lanes := rfl
@[simp] theorem Part.onIntake_locks (p : Part) (f : Intake → Intake) : (p.onIntake f).locks = p.locks := rfl
@[simp] theorem Part.onIntake_sweep (p : Part) (f : Intake → Intake) : (p.onIntake f).sweep = p.sweep := rfl
@[simp] theorem Part.onIntake_retry (p : Part) (f : Intake → Intake) : (p.onIntake f).retry = p.retry := rfl
@[simp] theorem Part.onIntake_findings (p : Part) (f : Intake → Intake) : (p.onIntake f).findings = p.findings := rfl
@[simp] theorem Part.onIntake_store (p : Part) (f : Intake → Intake) : (p.onIntake f).store = p.store := rfl
@[simp] theorem Part.onIntake_pace (p : Part) (f : Intake → Intake) : (p.onIntake f).pace = p.pace := rfl
@[simp] theorem Part.onIntake_freeCount (p : Part) (f : Intake → Intake) : (p.onIntake f).freeCount = p.freeCount := rfl

@[simp] theorem Part.onTable_regs (p : Part) (f : OrderTable → OrderTable) : (p.onTable f).regs = p.regs := rfl
@[simp] theorem Part.onTable_engine (p : Part) (f : OrderTable → OrderTable) : (p.onTable f).engine = p.engine := rfl
@[simp] theorem Part.onTable_intake (p : Part) (f : OrderTable → OrderTable) : (p.onTable f).intake = p.intake := rfl
@[simp] theorem Part.onTable_table (p : Part) (f : OrderTable → OrderTable) : (p.onTable f).table = f p.table := rfl
@[simp] theorem Part.onTable_status (p : Part) (f : OrderTable → OrderTable) : (p.onTable f).status = p.status := rfl
@[simp] theorem Part.onTable_alerts (p : Part) (f : OrderTable → OrderTable) : (p.onTable f).alerts = p.alerts := rfl
@[simp] theorem Part.onTable_geometry (p : Part) (f : OrderTable → OrderTable) : (p.onTable f).geometry = p.geometry := rfl
@[simp] theorem Part.onTable_buffer (p : Part) (f : OrderTable → OrderTable) : (p.onTable f).buffer = p.buffer := rfl
@[simp] theorem Part.onTable_lanes (p : Part) (f : OrderTable → OrderTable) : (p.onTable f).lanes = p.lanes := rfl
@[simp] theorem Part.onTable_locks (p : Part) (f : OrderTable → OrderTable) : (p.onTable f).locks = p.locks := rfl
@[simp] theorem Part.onTable_sweep (p : Part) (f : OrderTable → OrderTable) : (p.onTable f).sweep = p.sweep := rfl
@[simp] theorem Part.onTable_retry (p : Part) (f : OrderTable → OrderTable) : (p.onTable f).retry = p.retry := rfl
@[simp] theorem Part.onTable_findings (p : Part) (f : OrderTable → OrderTable) : (p.onTable f).findings = p.findings := rfl
@[simp] theorem Part.onTable_store (p : Part) (f : OrderTable → OrderTable) : (p.onTable f).store = p.store := rfl
@[simp] theorem Part.onTable_pace (p : Part) (f : OrderTable → OrderTable) : (p.onTable f).pace = p.pace := rfl
@[simp] theorem Part.onTable_freeCount (p : Part) (f : OrderTable → OrderTable) : (p.onTable f).freeCount = p.freeCount := rfl

@[simp] theorem Part.onStatus_regs (p : Part) (f : (List StatusWord) → (List StatusWord)) : (p.onStatus f).regs = p.regs := rfl
@[simp] theorem Part.onStatus_engine (p : Part) (f : (List StatusWord) → (List StatusWord)) : (p.onStatus f).engine = p.engine := rfl
@[simp] theorem Part.onStatus_intake (p : Part) (f : (List StatusWord) → (List StatusWord)) : (p.onStatus f).intake = p.intake := rfl
@[simp] theorem Part.onStatus_table (p : Part) (f : (List StatusWord) → (List StatusWord)) : (p.onStatus f).table = p.table := rfl
@[simp] theorem Part.onStatus_status (p : Part) (f : (List StatusWord) → (List StatusWord)) : (p.onStatus f).status = f p.status := rfl
@[simp] theorem Part.onStatus_alerts (p : Part) (f : (List StatusWord) → (List StatusWord)) : (p.onStatus f).alerts = p.alerts := rfl
@[simp] theorem Part.onStatus_geometry (p : Part) (f : (List StatusWord) → (List StatusWord)) : (p.onStatus f).geometry = p.geometry := rfl
@[simp] theorem Part.onStatus_buffer (p : Part) (f : (List StatusWord) → (List StatusWord)) : (p.onStatus f).buffer = p.buffer := rfl
@[simp] theorem Part.onStatus_lanes (p : Part) (f : (List StatusWord) → (List StatusWord)) : (p.onStatus f).lanes = p.lanes := rfl
@[simp] theorem Part.onStatus_locks (p : Part) (f : (List StatusWord) → (List StatusWord)) : (p.onStatus f).locks = p.locks := rfl
@[simp] theorem Part.onStatus_sweep (p : Part) (f : (List StatusWord) → (List StatusWord)) : (p.onStatus f).sweep = p.sweep := rfl
@[simp] theorem Part.onStatus_retry (p : Part) (f : (List StatusWord) → (List StatusWord)) : (p.onStatus f).retry = p.retry := rfl
@[simp] theorem Part.onStatus_findings (p : Part) (f : (List StatusWord) → (List StatusWord)) : (p.onStatus f).findings = p.findings := rfl
@[simp] theorem Part.onStatus_store (p : Part) (f : (List StatusWord) → (List StatusWord)) : (p.onStatus f).store = p.store := rfl
@[simp] theorem Part.onStatus_pace (p : Part) (f : (List StatusWord) → (List StatusWord)) : (p.onStatus f).pace = p.pace := rfl
@[simp] theorem Part.onStatus_freeCount (p : Part) (f : (List StatusWord) → (List StatusWord)) : (p.onStatus f).freeCount = p.freeCount := rfl

@[simp] theorem Part.onAlerts_regs (p : Part) (f : AlertUnit → AlertUnit) : (p.onAlerts f).regs = p.regs := rfl
@[simp] theorem Part.onAlerts_engine (p : Part) (f : AlertUnit → AlertUnit) : (p.onAlerts f).engine = p.engine := rfl
@[simp] theorem Part.onAlerts_intake (p : Part) (f : AlertUnit → AlertUnit) : (p.onAlerts f).intake = p.intake := rfl
@[simp] theorem Part.onAlerts_table (p : Part) (f : AlertUnit → AlertUnit) : (p.onAlerts f).table = p.table := rfl
@[simp] theorem Part.onAlerts_status (p : Part) (f : AlertUnit → AlertUnit) : (p.onAlerts f).status = p.status := rfl
@[simp] theorem Part.onAlerts_alerts (p : Part) (f : AlertUnit → AlertUnit) : (p.onAlerts f).alerts = f p.alerts := rfl
@[simp] theorem Part.onAlerts_geometry (p : Part) (f : AlertUnit → AlertUnit) : (p.onAlerts f).geometry = p.geometry := rfl
@[simp] theorem Part.onAlerts_buffer (p : Part) (f : AlertUnit → AlertUnit) : (p.onAlerts f).buffer = p.buffer := rfl
@[simp] theorem Part.onAlerts_lanes (p : Part) (f : AlertUnit → AlertUnit) : (p.onAlerts f).lanes = p.lanes := rfl
@[simp] theorem Part.onAlerts_locks (p : Part) (f : AlertUnit → AlertUnit) : (p.onAlerts f).locks = p.locks := rfl
@[simp] theorem Part.onAlerts_sweep (p : Part) (f : AlertUnit → AlertUnit) : (p.onAlerts f).sweep = p.sweep := rfl
@[simp] theorem Part.onAlerts_retry (p : Part) (f : AlertUnit → AlertUnit) : (p.onAlerts f).retry = p.retry := rfl
@[simp] theorem Part.onAlerts_findings (p : Part) (f : AlertUnit → AlertUnit) : (p.onAlerts f).findings = p.findings := rfl
@[simp] theorem Part.onAlerts_store (p : Part) (f : AlertUnit → AlertUnit) : (p.onAlerts f).store = p.store := rfl
@[simp] theorem Part.onAlerts_pace (p : Part) (f : AlertUnit → AlertUnit) : (p.onAlerts f).pace = p.pace := rfl
@[simp] theorem Part.onAlerts_freeCount (p : Part) (f : AlertUnit → AlertUnit) : (p.onAlerts f).freeCount = p.freeCount := rfl

@[simp] theorem Part.onGeometry_regs (p : Part) (f : Geometry → Geometry) : (p.onGeometry f).regs = p.regs := rfl
@[simp] theorem Part.onGeometry_engine (p : Part) (f : Geometry → Geometry) : (p.onGeometry f).engine = p.engine := rfl
@[simp] theorem Part.onGeometry_intake (p : Part) (f : Geometry → Geometry) : (p.onGeometry f).intake = p.intake := rfl
@[simp] theorem Part.onGeometry_table (p : Part) (f : Geometry → Geometry) : (p.onGeometry f).table = p.table := rfl
@[simp] theorem Part.onGeometry_status (p : Part) (f : Geometry → Geometry) : (p.onGeometry f).status = p.status := rfl
@[simp] theorem Part.onGeometry_alerts (p : Part) (f : Geometry → Geometry) : (p.onGeometry f).alerts = p.alerts := rfl
@[simp] theorem Part.onGeometry_geometry (p : Part) (f : Geometry → Geometry) : (p.onGeometry f).geometry = f p.geometry := rfl
@[simp] theorem Part.onGeometry_buffer (p : Part) (f : Geometry → Geometry) : (p.onGeometry f).buffer = p.buffer := rfl
@[simp] theorem Part.onGeometry_lanes (p : Part) (f : Geometry → Geometry) : (p.onGeometry f).lanes = p.lanes := rfl
@[simp] theorem Part.onGeometry_locks (p : Part) (f : Geometry → Geometry) : (p.onGeometry f).locks = p.locks := rfl
@[simp] theorem Part.onGeometry_sweep (p : Part) (f : Geometry → Geometry) : (p.onGeometry f).sweep = p.sweep := rfl
@[simp] theorem Part.onGeometry_retry (p : Part) (f : Geometry → Geometry) : (p.onGeometry f).retry = p.retry := rfl
@[simp] theorem Part.onGeometry_findings (p : Part) (f : Geometry → Geometry) : (p.onGeometry f).findings = p.findings := rfl
@[simp] theorem Part.onGeometry_store (p : Part) (f : Geometry → Geometry) : (p.onGeometry f).store = p.store := rfl
@[simp] theorem Part.onGeometry_pace (p : Part) (f : Geometry → Geometry) : (p.onGeometry f).pace = p.pace := rfl
@[simp] theorem Part.onGeometry_freeCount (p : Part) (f : Geometry → Geometry) : (p.onGeometry f).freeCount = p.freeCount := rfl

@[simp] theorem Part.onBuffer_regs (p : Part) (f : Buffer → Buffer) : (p.onBuffer f).regs = p.regs := rfl
@[simp] theorem Part.onBuffer_engine (p : Part) (f : Buffer → Buffer) : (p.onBuffer f).engine = p.engine := rfl
@[simp] theorem Part.onBuffer_intake (p : Part) (f : Buffer → Buffer) : (p.onBuffer f).intake = p.intake := rfl
@[simp] theorem Part.onBuffer_table (p : Part) (f : Buffer → Buffer) : (p.onBuffer f).table = p.table := rfl
@[simp] theorem Part.onBuffer_status (p : Part) (f : Buffer → Buffer) : (p.onBuffer f).status = p.status := rfl
@[simp] theorem Part.onBuffer_alerts (p : Part) (f : Buffer → Buffer) : (p.onBuffer f).alerts = p.alerts := rfl
@[simp] theorem Part.onBuffer_geometry (p : Part) (f : Buffer → Buffer) : (p.onBuffer f).geometry = p.geometry := rfl
@[simp] theorem Part.onBuffer_buffer (p : Part) (f : Buffer → Buffer) : (p.onBuffer f).buffer = f p.buffer := rfl
@[simp] theorem Part.onBuffer_lanes (p : Part) (f : Buffer → Buffer) : (p.onBuffer f).lanes = p.lanes := rfl
@[simp] theorem Part.onBuffer_locks (p : Part) (f : Buffer → Buffer) : (p.onBuffer f).locks = p.locks := rfl
@[simp] theorem Part.onBuffer_sweep (p : Part) (f : Buffer → Buffer) : (p.onBuffer f).sweep = p.sweep := rfl
@[simp] theorem Part.onBuffer_retry (p : Part) (f : Buffer → Buffer) : (p.onBuffer f).retry = p.retry := rfl
@[simp] theorem Part.onBuffer_findings (p : Part) (f : Buffer → Buffer) : (p.onBuffer f).findings = p.findings := rfl
@[simp] theorem Part.onBuffer_store (p : Part) (f : Buffer → Buffer) : (p.onBuffer f).store = p.store := rfl
@[simp] theorem Part.onBuffer_pace (p : Part) (f : Buffer → Buffer) : (p.onBuffer f).pace = p.pace := rfl
@[simp] theorem Part.onBuffer_freeCount (p : Part) (f : Buffer → Buffer) : (p.onBuffer f).freeCount = p.freeCount := rfl

@[simp] theorem Part.onLanes_regs (p : Part) (f : (List Lane) → (List Lane)) : (p.onLanes f).regs = p.regs := rfl
@[simp] theorem Part.onLanes_engine (p : Part) (f : (List Lane) → (List Lane)) : (p.onLanes f).engine = p.engine := rfl
@[simp] theorem Part.onLanes_intake (p : Part) (f : (List Lane) → (List Lane)) : (p.onLanes f).intake = p.intake := rfl
@[simp] theorem Part.onLanes_table (p : Part) (f : (List Lane) → (List Lane)) : (p.onLanes f).table = p.table := rfl
@[simp] theorem Part.onLanes_status (p : Part) (f : (List Lane) → (List Lane)) : (p.onLanes f).status = p.status := rfl
@[simp] theorem Part.onLanes_alerts (p : Part) (f : (List Lane) → (List Lane)) : (p.onLanes f).alerts = p.alerts := rfl
@[simp] theorem Part.onLanes_geometry (p : Part) (f : (List Lane) → (List Lane)) : (p.onLanes f).geometry = p.geometry := rfl
@[simp] theorem Part.onLanes_buffer (p : Part) (f : (List Lane) → (List Lane)) : (p.onLanes f).buffer = p.buffer := rfl
@[simp] theorem Part.onLanes_lanes (p : Part) (f : (List Lane) → (List Lane)) : (p.onLanes f).lanes = f p.lanes := rfl
@[simp] theorem Part.onLanes_locks (p : Part) (f : (List Lane) → (List Lane)) : (p.onLanes f).locks = p.locks := rfl
@[simp] theorem Part.onLanes_sweep (p : Part) (f : (List Lane) → (List Lane)) : (p.onLanes f).sweep = p.sweep := rfl
@[simp] theorem Part.onLanes_retry (p : Part) (f : (List Lane) → (List Lane)) : (p.onLanes f).retry = p.retry := rfl
@[simp] theorem Part.onLanes_findings (p : Part) (f : (List Lane) → (List Lane)) : (p.onLanes f).findings = p.findings := rfl
@[simp] theorem Part.onLanes_store (p : Part) (f : (List Lane) → (List Lane)) : (p.onLanes f).store = p.store := rfl
@[simp] theorem Part.onLanes_pace (p : Part) (f : (List Lane) → (List Lane)) : (p.onLanes f).pace = p.pace := rfl
@[simp] theorem Part.onLanes_freeCount (p : Part) (f : (List Lane) → (List Lane)) : (p.onLanes f).freeCount = p.freeCount := rfl

@[simp] theorem Part.onLocks_regs (p : Part) (f : LockTable → LockTable) : (p.onLocks f).regs = p.regs := rfl
@[simp] theorem Part.onLocks_engine (p : Part) (f : LockTable → LockTable) : (p.onLocks f).engine = p.engine := rfl
@[simp] theorem Part.onLocks_intake (p : Part) (f : LockTable → LockTable) : (p.onLocks f).intake = p.intake := rfl
@[simp] theorem Part.onLocks_table (p : Part) (f : LockTable → LockTable) : (p.onLocks f).table = p.table := rfl
@[simp] theorem Part.onLocks_status (p : Part) (f : LockTable → LockTable) : (p.onLocks f).status = p.status := rfl
@[simp] theorem Part.onLocks_alerts (p : Part) (f : LockTable → LockTable) : (p.onLocks f).alerts = p.alerts := rfl
@[simp] theorem Part.onLocks_geometry (p : Part) (f : LockTable → LockTable) : (p.onLocks f).geometry = p.geometry := rfl
@[simp] theorem Part.onLocks_buffer (p : Part) (f : LockTable → LockTable) : (p.onLocks f).buffer = p.buffer := rfl
@[simp] theorem Part.onLocks_lanes (p : Part) (f : LockTable → LockTable) : (p.onLocks f).lanes = p.lanes := rfl
@[simp] theorem Part.onLocks_locks (p : Part) (f : LockTable → LockTable) : (p.onLocks f).locks = f p.locks := rfl
@[simp] theorem Part.onLocks_sweep (p : Part) (f : LockTable → LockTable) : (p.onLocks f).sweep = p.sweep := rfl
@[simp] theorem Part.onLocks_retry (p : Part) (f : LockTable → LockTable) : (p.onLocks f).retry = p.retry := rfl
@[simp] theorem Part.onLocks_findings (p : Part) (f : LockTable → LockTable) : (p.onLocks f).findings = p.findings := rfl
@[simp] theorem Part.onLocks_store (p : Part) (f : LockTable → LockTable) : (p.onLocks f).store = p.store := rfl
@[simp] theorem Part.onLocks_pace (p : Part) (f : LockTable → LockTable) : (p.onLocks f).pace = p.pace := rfl
@[simp] theorem Part.onLocks_freeCount (p : Part) (f : LockTable → LockTable) : (p.onLocks f).freeCount = p.freeCount := rfl

@[simp] theorem Part.onSweep_regs (p : Part) (f : Sweep → Sweep) : (p.onSweep f).regs = p.regs := rfl
@[simp] theorem Part.onSweep_engine (p : Part) (f : Sweep → Sweep) : (p.onSweep f).engine = p.engine := rfl
@[simp] theorem Part.onSweep_intake (p : Part) (f : Sweep → Sweep) : (p.onSweep f).intake = p.intake := rfl
@[simp] theorem Part.onSweep_table (p : Part) (f : Sweep → Sweep) : (p.onSweep f).table = p.table := rfl
@[simp] theorem Part.onSweep_status (p : Part) (f : Sweep → Sweep) : (p.onSweep f).status = p.status := rfl
@[simp] theorem Part.onSweep_alerts (p : Part) (f : Sweep → Sweep) : (p.onSweep f).alerts = p.alerts := rfl
@[simp] theorem Part.onSweep_geometry (p : Part) (f : Sweep → Sweep) : (p.onSweep f).geometry = p.geometry := rfl
@[simp] theorem Part.onSweep_buffer (p : Part) (f : Sweep → Sweep) : (p.onSweep f).buffer = p.buffer := rfl
@[simp] theorem Part.onSweep_lanes (p : Part) (f : Sweep → Sweep) : (p.onSweep f).lanes = p.lanes := rfl
@[simp] theorem Part.onSweep_locks (p : Part) (f : Sweep → Sweep) : (p.onSweep f).locks = p.locks := rfl
@[simp] theorem Part.onSweep_sweep (p : Part) (f : Sweep → Sweep) : (p.onSweep f).sweep = f p.sweep := rfl
@[simp] theorem Part.onSweep_retry (p : Part) (f : Sweep → Sweep) : (p.onSweep f).retry = p.retry := rfl
@[simp] theorem Part.onSweep_findings (p : Part) (f : Sweep → Sweep) : (p.onSweep f).findings = p.findings := rfl
@[simp] theorem Part.onSweep_store (p : Part) (f : Sweep → Sweep) : (p.onSweep f).store = p.store := rfl
@[simp] theorem Part.onSweep_pace (p : Part) (f : Sweep → Sweep) : (p.onSweep f).pace = p.pace := rfl
@[simp] theorem Part.onSweep_freeCount (p : Part) (f : Sweep → Sweep) : (p.onSweep f).freeCount = p.freeCount := rfl

@[simp] theorem Part.onRetry_regs (p : Part) (f : RetryList → RetryList) : (p.onRetry f).regs = p.regs := rfl
@[simp] theorem Part.onRetry_engine (p : Part) (f : RetryList → RetryList) : (p.onRetry f).engine = p.engine := rfl
@[simp] theorem Part.onRetry_intake (p : Part) (f : RetryList → RetryList) : (p.onRetry f).intake = p.intake := rfl
@[simp] theorem Part.onRetry_table (p : Part) (f : RetryList → RetryList) : (p.onRetry f).table = p.table := rfl
@[simp] theorem Part.onRetry_status (p : Part) (f : RetryList → RetryList) : (p.onRetry f).status = p.status := rfl
@[simp] theorem Part.onRetry_alerts (p : Part) (f : RetryList → RetryList) : (p.onRetry f).alerts = p.alerts := rfl
@[simp] theorem Part.onRetry_geometry (p : Part) (f : RetryList → RetryList) : (p.onRetry f).geometry = p.geometry := rfl
@[simp] theorem Part.onRetry_buffer (p : Part) (f : RetryList → RetryList) : (p.onRetry f).buffer = p.buffer := rfl
@[simp] theorem Part.onRetry_lanes (p : Part) (f : RetryList → RetryList) : (p.onRetry f).lanes = p.lanes := rfl
@[simp] theorem Part.onRetry_locks (p : Part) (f : RetryList → RetryList) : (p.onRetry f).locks = p.locks := rfl
@[simp] theorem Part.onRetry_sweep (p : Part) (f : RetryList → RetryList) : (p.onRetry f).sweep = p.sweep := rfl
@[simp] theorem Part.onRetry_retry (p : Part) (f : RetryList → RetryList) : (p.onRetry f).retry = f p.retry := rfl
@[simp] theorem Part.onRetry_findings (p : Part) (f : RetryList → RetryList) : (p.onRetry f).findings = p.findings := rfl
@[simp] theorem Part.onRetry_store (p : Part) (f : RetryList → RetryList) : (p.onRetry f).store = p.store := rfl
@[simp] theorem Part.onRetry_pace (p : Part) (f : RetryList → RetryList) : (p.onRetry f).pace = p.pace := rfl
@[simp] theorem Part.onRetry_freeCount (p : Part) (f : RetryList → RetryList) : (p.onRetry f).freeCount = p.freeCount := rfl

@[simp] theorem Part.onFindings_regs (p : Part) (f : Findings → Findings) : (p.onFindings f).regs = p.regs := rfl
@[simp] theorem Part.onFindings_engine (p : Part) (f : Findings → Findings) : (p.onFindings f).engine = p.engine := rfl
@[simp] theorem Part.onFindings_intake (p : Part) (f : Findings → Findings) : (p.onFindings f).intake = p.intake := rfl
@[simp] theorem Part.onFindings_table (p : Part) (f : Findings → Findings) : (p.onFindings f).table = p.table := rfl
@[simp] theorem Part.onFindings_status (p : Part) (f : Findings → Findings) : (p.onFindings f).status = p.status := rfl
@[simp] theorem Part.onFindings_alerts (p : Part) (f : Findings → Findings) : (p.onFindings f).alerts = p.alerts := rfl
@[simp] theorem Part.onFindings_geometry (p : Part) (f : Findings → Findings) : (p.onFindings f).geometry = p.geometry := rfl
@[simp] theorem Part.onFindings_buffer (p : Part) (f : Findings → Findings) : (p.onFindings f).buffer = p.buffer := rfl
@[simp] theorem Part.onFindings_lanes (p : Part) (f : Findings → Findings) : (p.onFindings f).lanes = p.lanes := rfl
@[simp] theorem Part.onFindings_locks (p : Part) (f : Findings → Findings) : (p.onFindings f).locks = p.locks := rfl
@[simp] theorem Part.onFindings_sweep (p : Part) (f : Findings → Findings) : (p.onFindings f).sweep = p.sweep := rfl
@[simp] theorem Part.onFindings_retry (p : Part) (f : Findings → Findings) : (p.onFindings f).retry = p.retry := rfl
@[simp] theorem Part.onFindings_findings (p : Part) (f : Findings → Findings) : (p.onFindings f).findings = f p.findings := rfl
@[simp] theorem Part.onFindings_store (p : Part) (f : Findings → Findings) : (p.onFindings f).store = p.store := rfl
@[simp] theorem Part.onFindings_pace (p : Part) (f : Findings → Findings) : (p.onFindings f).pace = p.pace := rfl
@[simp] theorem Part.onFindings_freeCount (p : Part) (f : Findings → Findings) : (p.onFindings f).freeCount = p.freeCount := rfl

@[simp] theorem Part.onStore_regs (p : Part) (f : CheckpointStore → CheckpointStore) : (p.onStore f).regs = p.regs := rfl
@[simp] theorem Part.onStore_engine (p : Part) (f : CheckpointStore → CheckpointStore) : (p.onStore f).engine = p.engine := rfl
@[simp] theorem Part.onStore_intake (p : Part) (f : CheckpointStore → CheckpointStore) : (p.onStore f).intake = p.intake := rfl
@[simp] theorem Part.onStore_table (p : Part) (f : CheckpointStore → CheckpointStore) : (p.onStore f).table = p.table := rfl
@[simp] theorem Part.onStore_status (p : Part) (f : CheckpointStore → CheckpointStore) : (p.onStore f).status = p.status := rfl
@[simp] theorem Part.onStore_alerts (p : Part) (f : CheckpointStore → CheckpointStore) : (p.onStore f).alerts = p.alerts := rfl
@[simp] theorem Part.onStore_geometry (p : Part) (f : CheckpointStore → CheckpointStore) : (p.onStore f).geometry = p.geometry := rfl
@[simp] theorem Part.onStore_buffer (p : Part) (f : CheckpointStore → CheckpointStore) : (p.onStore f).buffer = p.buffer := rfl
@[simp] theorem Part.onStore_lanes (p : Part) (f : CheckpointStore → CheckpointStore) : (p.onStore f).lanes = p.lanes := rfl
@[simp] theorem Part.onStore_locks (p : Part) (f : CheckpointStore → CheckpointStore) : (p.onStore f).locks = p.locks := rfl
@[simp] theorem Part.onStore_sweep (p : Part) (f : CheckpointStore → CheckpointStore) : (p.onStore f).sweep = p.sweep := rfl
@[simp] theorem Part.onStore_retry (p : Part) (f : CheckpointStore → CheckpointStore) : (p.onStore f).retry = p.retry := rfl
@[simp] theorem Part.onStore_findings (p : Part) (f : CheckpointStore → CheckpointStore) : (p.onStore f).findings = p.findings := rfl
@[simp] theorem Part.onStore_store (p : Part) (f : CheckpointStore → CheckpointStore) : (p.onStore f).store = f p.store := rfl
@[simp] theorem Part.onStore_pace (p : Part) (f : CheckpointStore → CheckpointStore) : (p.onStore f).pace = p.pace := rfl
@[simp] theorem Part.onStore_freeCount (p : Part) (f : CheckpointStore → CheckpointStore) : (p.onStore f).freeCount = p.freeCount := rfl

@[simp] theorem Part.onPace_regs (p : Part) (f : Pace → Pace) : (p.onPace f).regs = p.regs := rfl
@[simp] theorem Part.onPace_engine (p : Part) (f : Pace → Pace) : (p.onPace f).engine = p.engine := rfl
@[simp] theorem Part.onPace_intake (p : Part) (f : Pace → Pace) : (p.onPace f).intake = p.intake := rfl
@[simp] theorem Part.onPace_table (p : Part) (f : Pace → Pace) : (p.onPace f).table = p.table := rfl
@[simp] theorem Part.onPace_status (p : Part) (f : Pace → Pace) : (p.onPace f).status = p.status := rfl
@[simp] theorem Part.onPace_alerts (p : Part) (f : Pace → Pace) : (p.onPace f).alerts = p.alerts := rfl
@[simp] theorem Part.onPace_geometry (p : Part) (f : Pace → Pace) : (p.onPace f).geometry = p.geometry := rfl
@[simp] theorem Part.onPace_buffer (p : Part) (f : Pace → Pace) : (p.onPace f).buffer = p.buffer := rfl
@[simp] theorem Part.onPace_lanes (p : Part) (f : Pace → Pace) : (p.onPace f).lanes = p.lanes := rfl
@[simp] theorem Part.onPace_locks (p : Part) (f : Pace → Pace) : (p.onPace f).locks = p.locks := rfl
@[simp] theorem Part.onPace_sweep (p : Part) (f : Pace → Pace) : (p.onPace f).sweep = p.sweep := rfl
@[simp] theorem Part.onPace_retry (p : Part) (f : Pace → Pace) : (p.onPace f).retry = p.retry := rfl
@[simp] theorem Part.onPace_findings (p : Part) (f : Pace → Pace) : (p.onPace f).findings = p.findings := rfl
@[simp] theorem Part.onPace_store (p : Part) (f : Pace → Pace) : (p.onPace f).store = p.store := rfl
@[simp] theorem Part.onPace_pace (p : Part) (f : Pace → Pace) : (p.onPace f).pace = f p.pace := rfl
@[simp] theorem Part.onPace_freeCount (p : Part) (f : Pace → Pace) : (p.onPace f).freeCount = p.freeCount := rfl

@[simp] theorem Part.onFreeCount_regs (p : Part) (f : Nat → Nat) : (p.onFreeCount f).regs = p.regs := rfl
@[simp] theorem Part.onFreeCount_engine (p : Part) (f : Nat → Nat) : (p.onFreeCount f).engine = p.engine := rfl
@[simp] theorem Part.onFreeCount_intake (p : Part) (f : Nat → Nat) : (p.onFreeCount f).intake = p.intake := rfl
@[simp] theorem Part.onFreeCount_table (p : Part) (f : Nat → Nat) : (p.onFreeCount f).table = p.table := rfl
@[simp] theorem Part.onFreeCount_status (p : Part) (f : Nat → Nat) : (p.onFreeCount f).status = p.status := rfl
@[simp] theorem Part.onFreeCount_alerts (p : Part) (f : Nat → Nat) : (p.onFreeCount f).alerts = p.alerts := rfl
@[simp] theorem Part.onFreeCount_geometry (p : Part) (f : Nat → Nat) : (p.onFreeCount f).geometry = p.geometry := rfl
@[simp] theorem Part.onFreeCount_buffer (p : Part) (f : Nat → Nat) : (p.onFreeCount f).buffer = p.buffer := rfl
@[simp] theorem Part.onFreeCount_lanes (p : Part) (f : Nat → Nat) : (p.onFreeCount f).lanes = p.lanes := rfl
@[simp] theorem Part.onFreeCount_locks (p : Part) (f : Nat → Nat) : (p.onFreeCount f).locks = p.locks := rfl
@[simp] theorem Part.onFreeCount_sweep (p : Part) (f : Nat → Nat) : (p.onFreeCount f).sweep = p.sweep := rfl
@[simp] theorem Part.onFreeCount_retry (p : Part) (f : Nat → Nat) : (p.onFreeCount f).retry = p.retry := rfl
@[simp] theorem Part.onFreeCount_findings (p : Part) (f : Nat → Nat) : (p.onFreeCount f).findings = p.findings := rfl
@[simp] theorem Part.onFreeCount_store (p : Part) (f : Nat → Nat) : (p.onFreeCount f).store = p.store := rfl
@[simp] theorem Part.onFreeCount_pace (p : Part) (f : Nat → Nat) : (p.onFreeCount f).pace = p.pace := rfl
@[simp] theorem Part.onFreeCount_freeCount (p : Part) (f : Nat → Nat) : (p.onFreeCount f).freeCount = f p.freeCount := rfl

@[simp] theorem State.with_part_part (s : State) (q : Part) : ({ s with part := q } : State).part = q := rfl
@[simp] theorem State.with_part_pending (s : State) (q : Part) : ({ s with part := q } : State).pending = s.pending := rfl
@[simp] theorem State.with_pending_part (s : State) (q : List Instr) : ({ s with pending := q } : State).part = s.part := rfl
@[simp] theorem State.with_pending_pending (s : State) (q : List Instr) : ({ s with pending := q } : State).pending = q := rfl

end Sys2Proof.Machine
end

