-- ==== Sys2Proof/Laws/Lists.lean ====
section
/-! SUPPORT. The list and bit helpers of Ops.lean and Operands.lean: what each can do, said once. -/

namespace Sys2Proof.Machine

/-! ### modAt and lowestIndex -/

@[simp] theorem length_modAt {α : Type} (f : α → α) (l : List α) (i : Nat) : (modAt f l i).length = l.length := by
  induction l generalizing i with
  | nil => rfl
  | cons a l ih => cases i <;> simp [modAt, ih]

/-- The changed element is the old one through `f`. -/
theorem getElem?_modAt_self {α : Type} (f : α → α) (l : List α) (i : Nat) : (modAt f l i)[i]? = l[i]?.map f := by
  induction l generalizing i with
  | nil => rfl
  | cons a l ih => cases i <;> simp [modAt, ih]

/-- Every other element is unchanged. -/
theorem getElem?_modAt_ne {α : Type} (f : α → α) (l : List α) {i j : Nat} (h : i ≠ j) :
    (modAt f l i)[j]? = l[j]? := by
  induction l generalizing i j with
  | nil => rfl
  | cons a l ih =>
    cases i with
    | zero =>
      cases j with
      | zero => exact absurd rfl h
      | succ j => simp [modAt]
    | succ i =>
      cases j with
      | zero => simp [modAt]
      | succ j => simpa [modAt] using ih (by omega)

theorem getD_modAt_ne {α : Type} (f : α → α) (l : List α) {i j : Nat} (d : α) (h : i ≠ j) :
    (modAt f l i).getD j d = l.getD j d := by
  simp only [List.getD_eq_getElem?_getD, getElem?_modAt_ne f l h]

theorem getD_modAt_self {α : Type} (f : α → α) (l : List α) {i : Nat} (d : α) (h : i < l.length) :
    (modAt f l i).getD i d = f (l.getD i d) := by
  simp [List.getD_eq_getElem?_getD, getElem?_modAt_self, List.getElem?_eq_getElem h]

/-- A change that fixes the default is seen at every number. -/
theorem getD_modAt_map {α : Type} (f : Option α → Option α) (l : List (Option α)) (i : Nat) (h : f none = none) :
    (modAt f l i).getD i none = f (l.getD i none) := by
  rw [List.getD_eq_getElem?_getD, getElem?_modAt_self, List.getD_eq_getElem?_getD]
  cases l[i]? <;> simp [h]

/-- The lowest index: the test holds there and nowhere below. -/
theorem lowestIndex_some {α : Type} {test : α → Bool} {l : List α} {i : Nat} (h : lowestIndex test l = some i) :
    (∃ a, l[i]? = some a ∧ test a = true) ∧ ∀ j a, j < i → l[j]? = some a → test a = false := by
  induction l generalizing i with
  | nil => simp [lowestIndex] at h
  | cons a l ih =>
    simp only [lowestIndex] at h
    split at h
    · cases h
      exact ⟨⟨a, by simp, ‹_›⟩, fun j b hj => absurd hj (by omega)⟩
    · cases hl : lowestIndex test l with
      | none => simp [hl] at h
      | some k =>
        simp only [hl, Option.map_some, Option.some.injEq] at h
        subst h
        obtain ⟨⟨b, hb, tb⟩, below⟩ := ih hl
        refine ⟨⟨b, by simpa using hb, tb⟩, fun j c hj hc => ?_⟩
        cases j with
        | zero => simp only [List.getElem?_cons_zero, Option.some.injEq] at hc; subst hc; simpa using ‹¬test a = true›
        | succ j => exact below j c (by omega) (by simpa using hc)

/-- No index: the test holds nowhere. -/
theorem lowestIndex_none {α : Type} {test : α → Bool} {l : List α} (h : lowestIndex test l = none) :
    ∀ a ∈ l, test a = false := by
  induction l with
  | nil => simp
  | cons a l ih =>
    simp only [lowestIndex] at h
    split at h
    · simp at h
    · intro b hb
      rcases List.mem_cons.mp hb with rfl | hb
      · simpa using ‹¬test b = true›
      · exact ih (by simpa using h) b hb

/-! ### Bit sets -/

@[simp] theorem getLsbD_setBit {w : Nat} (s : BitVec w) (i j : Nat) :
    (setBit s i).getLsbD j = (s.getLsbD j || (decide (j < w) && decide (i = j))) := by
  unfold setBit
  by_cases hj : j < w
  · by_cases h : i = j
    · subst h; simp [hj]
    · simp only [BitVec.getLsbD_or, BitVec.getLsbD_shiftLeft, hj, decide_true, Bool.true_and, decide_eq_false h,
        Bool.or_false]
      by_cases hij : j < i
      · simp [hij]
      · have : j - i ≠ 0 := by omega
        simp [hij, BitVec.getLsbD_one, this]
  · simp [BitVec.getLsbD_of_ge _ _ (Nat.le_of_not_lt hj), hj]

@[simp] theorem getLsbD_clearBit {w : Nat} (s : BitVec w) (i j : Nat) :
    (clearBit s i).getLsbD j = (s.getLsbD j && !decide (i = j)) := by
  unfold clearBit
  by_cases hj : j < w
  · by_cases h : i = j
    · subst h; simp [hj]
    · simp only [BitVec.getLsbD_and, BitVec.getLsbD_not, BitVec.getLsbD_shiftLeft, hj, decide_true, Bool.true_and,
        decide_eq_false h, Bool.not_false, Bool.and_true]
      by_cases hij : j < i
      · simp [hij]
      · have : j - i ≠ 0 := by omega
        simp [hij, BitVec.getLsbD_one, this]
  · simp [BitVec.getLsbD_of_ge _ _ (Nat.le_of_not_lt hj)]

/-! ### Little-endian fields -/

@[simp] theorem length_leBytes (size n : Nat) : (leBytes size n).length = size := by
  induction size generalizing n with
  | zero => rfl
  | succ size ih => simp [leBytes, ih]

/-- Reading back the bytes of a value gives it modulo the field's width. -/
theorem leValue_leBytes (size n : Nat) : leValue (leBytes size n) = n % 256 ^ size := by
  induction size generalizing n with
  | zero => simp [leBytes, leValue, Nat.mod_one]
  | succ size ih =>
    simp only [leBytes, leValue, ih, BitVec.toNat_ofNat]
    exact (Nat.pow_succ' (n := size) (m := 256) ▸ (Nat.mod_mul (a := 256) (b := 256 ^ size) (x := n)).symm :)

end Sys2Proof.Machine
end

