-- ==== Sys2Proof/Laws/Table.lean ====
section
/-! SUPPORT. The Order Table's entries: what a change to one of them does to it and to the others, and when the rows of the
extent orders stay in increasing order (BandLaw). -/

namespace Sys2Proof.Machine

/-! ### Order Table entries -/

/-- The entry of an order being worked on, changed. -/
theorem entry?_modEntry_self (p : Part) (e : Nat) (f : OrderEntry → OrderEntry) :
    (p.modEntry e f).entry? e = (p.entry? e).map f :=
  getD_modAt_map (Option.map f) p.table.entries e rfl

/-- Every other entry is unchanged. -/
theorem entry?_modEntry_ne (p : Part) {e i : Nat} (f : OrderEntry → OrderEntry) (h : e ≠ i) :
    (p.modEntry e f).entry? i = p.entry? i :=
  getD_modAt_ne (Option.map f) p.table.entries none h

/-- An order has a progress record exactly when its entry's work is one. -/
theorem extent?_eq_some {p : Part} {e : Nat} {x : Extent} :
    p.extent? e = some x ↔ ∃ a, p.entry? e = some a ∧ a.work = .extent x := by
  unfold Part.extent?
  constructor
  · intro h
    split at h
    · rename_i ha; cases h; exact ⟨_, ha, rfl⟩
    · cases h
  · rintro ⟨⟨r, w, ws⟩, ha, hw⟩
    cases hw
    rw [ha]

/-! ### Rows in order -/

/-- Rows changed but for their numbers stay in order. -/
theorem RowsOrdered.map {rows : List RowWork} (f : RowWork → RowWork) (h : ∀ w, (f w).row = w.row)
    (ordered : RowsOrdered rows) : RowsOrdered (rows.map f) := by
  have e : (rows.map f).map (·.row) = rows.map (·.row) := by
    rw [List.map_map]; exact List.map_congr_left fun w _ => h w
  unfold RowsOrdered; rw [e]; exact ordered

/-- A table that differs in one place keeps the law when that place's rows stand in order. -/
theorem BandLaw.except {p q : Part} (e : Nat) (others : ∀ i, i ≠ e → q.entry? i = p.entry? i)
    (h : ∀ a x, q.entry? e = some a → a.work = .extent x → x.RowsInOrder) (law : BandLaw p) : BandLaw q := by
  intro i x hx
  obtain ⟨a, ha, hw⟩ := extent?_eq_some.mp hx
  by_cases hi : i = e
  · subst hi; exact h a x ha hw
  · exact law i x (extent?_eq_some.mpr ⟨a, (others i hi) ▸ ha, hw⟩)

/-- A changed entry keeps the law when its rows stand in order. -/
theorem BandLaw.modEntry {p : Part} (e : Nat) (f : OrderEntry → OrderEntry)
    (h : ∀ a x, p.entry? e = some a → (f a).work = .extent x → x.RowsInOrder) (law : BandLaw p) :
    BandLaw (p.modEntry e f) := by
  refine law.except e (fun i hi => entry?_modEntry_ne p f (Ne.symm hi)) fun a x ha hw => ?_
  rw [entry?_modEntry_self] at ha
  obtain ⟨b, hb, rfl⟩ := Option.map_eq_some_iff.mp ha
  exact h b x hb hw

/-- A changed progress record keeps the law when its rows stay in order. -/
theorem BandLaw.modExtent {p : Part} (e : Nat) (f : Extent → Extent)
    (h : ∀ x, p.extent? e = some x → x.RowsInOrder → (f x).RowsInOrder) (law : BandLaw p) :
    BandLaw (p.modExtent e f) := by
  refine BandLaw.modEntry e _ (fun a x ha hw => ?_) law
  have own : ∀ y, a.work = .extent y → p.extent? e = some y := fun y hy => extent?_eq_some.mpr ⟨a, ha, hy⟩
  split at hw
  · rename_i y hy
    cases hw
    exact h y (own y hy) (law e y (own y hy))
  · exact law e x (own x hw)

/-- An entry set to a new order, or freed, keeps the law: it holds no rows yet. -/
theorem BandLaw.set {p q : Part} (e : Nat) (o : Option OrderEntry) (entries : q.table.entries = p.table.entries.set e o)
    (h : ∀ a x, o = some a → a.work ≠ .extent x) (law : BandLaw p) : BandLaw q := by
  refine law.except e (fun i hi => ?_) fun a x ha hw => ?_
  · simp only [Part.entry?, entries, List.getD_eq_getElem?_getD, List.getElem?_set_ne (Ne.symm hi)]
  · simp only [Part.entry?, entries, List.getD_eq_getElem?_getD, List.getElem?_set_self', Option.map_eq_map] at ha
    cases hp : p.table.entries[e]? with
    | none => rw [hp] at ha; cases ha
    | some y => rw [hp] at ha; exact absurd hw (h a x ha)

end Sys2Proof.Machine
end

