-- ==== Sys2Proof/Laws/Finish.lean ====
section
/-! SUPPORT. What every command ends with (`finish`): the blocks it leaves alone, what becomes of an Order Table entry, and
the shape that every command's effect has. -/

namespace Sys2Proof.Machine

/-! ### The blocks that `finish` leaves alone -/

/-- Everything but the intake, the Order Table, the status page, the drained mark, the attention output and the model's
counter is equal. -/
structure Part.Ended (p q : Part) : Prop where
  regs : q.regs = p.regs
  engine : q.engine.state = p.engine.state
  alerts : q.alerts = { p.alerts with attention := q.alerts.attention }
  geometry : q.geometry = p.geometry
  buffer : q.buffer = p.buffer
  lanes : q.lanes = p.lanes
  locks : q.locks = p.locks
  sweep : q.sweep = p.sweep
  retry : q.retry = p.retry
  findings : q.findings = p.findings
  store : q.store = p.store
  pace : q.pace = p.pace

theorem Part.Ended.refl (p : Part) : p.Ended p := ⟨rfl, rfl, rfl, rfl, rfl, rfl, rfl, rfl, rfl, rfl, rfl, rfl⟩

theorem Part.Ended.trans {p q r : Part} (h : p.Ended q) (k : q.Ended r) : p.Ended r :=
  ⟨k.regs.trans h.regs, k.engine.trans h.engine, by rw [k.alerts, h.alerts], k.geometry.trans h.geometry,
    k.buffer.trans h.buffer, k.lanes.trans h.lanes, k.locks.trans h.locks, k.sweep.trans h.sweep, k.retry.trans h.retry,
    k.findings.trans h.findings, k.store.trans h.store, k.pace.trans h.pace⟩

theorem Part.Ended.ite {p q r : Part} {c : Prop} [Decidable c] (h : p.Ended q) (k : p.Ended r) :
    p.Ended (if c then q else r) := by
  split
  · exact h
  · exact k

theorem finishOrder_ended (e : Nat) (st : Status) (a b : Option Word) (p : Part) : p.Ended (finishOrder e st a b p) :=
  ⟨rfl, rfl, rfl, rfl, rfl, rfl, rfl, rfl, rfl, rfl, rfl, rfl⟩

theorem completeBarrier_ended (p : Part) : p.Ended (completeBarrier p) := by
  unfold completeBarrier
  split
  · exact .ite (finishOrder_ended ..) (.refl p)
  · exact .refl p

theorem dispatchOne_ended (p : Part) : p.Ended (dispatchOne p) := by
  unfold dispatchOne
  split
  · exact .ite ⟨rfl, rfl, rfl, rfl, rfl, rfl, rfl, rfl, rfl, rfl, rfl, rfl⟩ (.refl p)
  · exact .refl p

theorem dispatchAll_ended (n : Nat) (p : Part) : p.Ended (dispatchAll n p) := by
  induction n generalizing p with
  | zero => exact .refl p
  | succ n ih => exact (dispatchOne_ended p).trans (ih _)

theorem beginFetch_ended (p : Part) : p.Ended (beginFetch p) := by
  unfold beginFetch
  split
  · exact .ite ⟨rfl, rfl, rfl, rfl, rfl, rfl, rfl, rfl, rfl, rfl, rfl, rfl⟩ (.refl p)
  · exact .refl p

theorem syncStatus_ended (p : Part) : p.Ended (syncStatus p) :=
  .ite ⟨rfl, rfl, rfl, rfl, rfl, rfl, rfl, rfl, rfl, rfl, rfl, rfl⟩ (.refl p)

theorem drainCheck_ended (p : Part) : p.Ended (drainCheck p) :=
  ⟨rfl, rfl, rfl, rfl, rfl, rfl, rfl, rfl, rfl, rfl, rfl, rfl⟩

theorem driveAttention_ended (p : Part) : p.Ended (driveAttention p) :=
  ⟨rfl, rfl, rfl, rfl, rfl, rfl, rfl, rfl, rfl, rfl, rfl, rfl⟩

theorem finish_ended (p : Part) : p.Ended (finish p) :=
  (((((completeBarrier_ended p).trans (dispatchAll_ended _ _)).trans (beginFetch_ended _)).trans
    (syncStatus_ended _)).trans (drainCheck_ended _)).trans (driveAttention_ended _)

@[simp] theorem finish_regs (p : Part) : (finish p).regs = p.regs := (finish_ended p).regs
@[simp] theorem finish_engine_state (p : Part) : (finish p).engine.state = p.engine.state := (finish_ended p).engine
@[simp] theorem finish_geometry (p : Part) : (finish p).geometry = p.geometry := (finish_ended p).geometry
@[simp] theorem finish_buffer (p : Part) : (finish p).buffer = p.buffer := (finish_ended p).buffer
@[simp] theorem finish_lanes (p : Part) : (finish p).lanes = p.lanes := (finish_ended p).lanes
@[simp] theorem finish_locks (p : Part) : (finish p).locks = p.locks := (finish_ended p).locks
@[simp] theorem finish_sweep (p : Part) : (finish p).sweep = p.sweep := (finish_ended p).sweep
@[simp] theorem finish_retry (p : Part) : (finish p).retry = p.retry := (finish_ended p).retry
@[simp] theorem finish_findings (p : Part) : (finish p).findings = p.findings := (finish_ended p).findings
@[simp] theorem finish_store (p : Part) : (finish p).store = p.store := (finish_ended p).store
@[simp] theorem finish_pace (p : Part) : (finish p).pace = p.pace := (finish_ended p).pace
@[simp] theorem finish_pending (p : Part) : (finish p).alerts.pending = p.alerts.pending := by
  rw [(finish_ended p).alerts]
@[simp] theorem finish_levels (p : Part) : (finish p).alerts.levels = p.alerts.levels := by rw [(finish_ended p).alerts]
@[simp] theorem finish_mask (p : Part) : (finish p).alerts.mask = p.alerts.mask := by rw [(finish_ended p).alerts]
@[simp] theorem finish_pulseMode (p : Part) : (finish p).alerts.pulseMode = p.alerts.pulseMode := by
  rw [(finish_ended p).alerts]
@[simp] theorem finish_latched (p : Part) : (finish p).alerts.latched = p.alerts.latched := by
  rw [(finish_ended p).alerts]

/-! ### The intake's place in the chain -/

/-- The intake but for what dispatch and fetching move. -/
def Intake.chain (i : Intake) : Intake := { i with holding := [], barrier := none, fetch := .none, fetchAddress := 0 }

@[simp] theorem Intake.chain_state (i : Intake) : i.chain.state = i.state := rfl
@[simp] theorem Intake.chain_fetchPosition (i : Intake) : i.chain.fetchPosition = i.fetchPosition := rfl
@[simp] theorem Intake.chain_parked (i : Intake) : i.chain.parked = i.parked := rfl
@[simp] theorem Intake.chain_latch (i : Intake) : i.chain.latch = i.latch := rfl
@[simp] theorem Intake.chain_depth (i : Intake) : i.chain.depth = i.depth := rfl
@[simp] theorem Intake.chain_statusPage (i : Intake) : i.chain.statusPage = i.statusPage := rfl
@[simp] theorem Intake.chain_reread (i : Intake) : i.chain.reread = i.reread := rfl
@[simp] theorem Intake.chain_resumeRead (i : Intake) : i.chain.resumeRead = i.resumeRead := rfl
@[simp] theorem Intake.chain_faultAddress (i : Intake) : i.chain.faultAddress = i.faultAddress := rfl
@[simp] theorem Intake.chain_leftover (i : Intake) : i.chain.leftover = i.leftover := rfl

theorem completeBarrier_intake (p : Part) : (completeBarrier p).intake = p.intake := by
  unfold completeBarrier
  split
  · split <;> rfl
  · rfl

theorem dispatchOne_chain (p : Part) : (dispatchOne p).intake.chain = p.intake.chain := by
  unfold dispatchOne
  split
  · split <;> rfl
  · rfl

theorem dispatchAll_chain (n : Nat) (p : Part) : (dispatchAll n p).intake.chain = p.intake.chain := by
  induction n generalizing p with
  | zero => rfl
  | succ n ih => exact (ih _).trans (dispatchOne_chain p)

theorem beginFetch_chain (p : Part) : (beginFetch p).intake.chain = p.intake.chain := by
  unfold beginFetch
  split
  · split <;> rfl
  · rfl

theorem afterFetch_intake (p : Part) : (driveAttention (drainCheck (syncStatus p))).intake = p.intake := by
  have sync : ∀ q : Part, (syncStatus q).intake = q.intake := fun q => by unfold syncStatus; split <;> rfl
  exact sync _

/-- What every command ends with leaves the intake's place in the chain alone. -/
theorem finish_chain (p : Part) : (finish p).intake.chain = p.intake.chain := by
  unfold finish
  rw [afterFetch_intake, beginFetch_chain, dispatchAll_chain, completeBarrier_intake]

@[simp] theorem finish_intake_state (p : Part) : (finish p).intake.state = p.intake.state :=
  by
  simpa using congrArg Intake.state (finish_chain p)
@[simp] theorem finish_intake_fetchPosition (p : Part) : (finish p).intake.fetchPosition = p.intake.fetchPosition :=
  by
  simpa using congrArg Intake.fetchPosition (finish_chain p)
@[simp] theorem finish_intake_parked (p : Part) : (finish p).intake.parked = p.intake.parked :=
  by
  simpa using congrArg Intake.parked (finish_chain p)
@[simp] theorem finish_intake_latch (p : Part) : (finish p).intake.latch = p.intake.latch :=
  by
  simpa using congrArg Intake.latch (finish_chain p)
@[simp] theorem finish_intake_depth (p : Part) : (finish p).intake.depth = p.intake.depth :=
  by
  simpa using congrArg Intake.depth (finish_chain p)
@[simp] theorem finish_intake_statusPage (p : Part) : (finish p).intake.statusPage = p.intake.statusPage :=
  by
  simpa using congrArg Intake.statusPage (finish_chain p)
@[simp] theorem finish_intake_reread (p : Part) : (finish p).intake.reread = p.intake.reread :=
  by
  simpa using congrArg Intake.reread (finish_chain p)
@[simp] theorem finish_intake_resumeRead (p : Part) : (finish p).intake.resumeRead = p.intake.resumeRead :=
  by
  simpa using congrArg Intake.resumeRead (finish_chain p)
@[simp] theorem finish_intake_faultAddress (p : Part) : (finish p).intake.faultAddress = p.intake.faultAddress :=
  by
  simpa using congrArg Intake.faultAddress (finish_chain p)
@[simp] theorem finish_intake_leftover (p : Part) : (finish p).intake.leftover = p.intake.leftover :=
  by
  simpa using congrArg Intake.leftover (finish_chain p)

/-! ### Order Table entries -/

/-- An order that finishes is COMPLETING with its status and details, and its detail words are written (R193). -/
theorem finishOrder_entry (e : Nat) (st : Status) (a b : Option Word) (p : Part) :
    (finishOrder e st a b p).entry? e = (p.entry? e).map fun x =>
      let da := a.getD (Config.openDetail (2 * p.freeCount))
      let db := b.getD (Config.openDetail (2 * p.freeCount + 1))
      { x with work := .completing st da db false, writes := x.record.detailWrites da db } :=
  entry?_modEntry_self p e _

theorem finishOrder_entry_ne {e i : Nat} (st : Status) (a b : Option Word) (p : Part) (h : e ≠ i) :
    (finishOrder e st a b p).entry? i = p.entry? i :=
  entry?_modEntry_ne p _ h

/-- An entry whose work is not a wait survives the end of a BARRIER. -/
theorem completeBarrier_entry (p : Part) {e : Nat} {x : OrderEntry} (h : p.entry? e = some x) (w : x.work ≠ .waiting) :
    (completeBarrier p).entry? e = some x := by
  unfold completeBarrier
  split
  · rename_i i _
    split
    · rename_i hw
      by_cases hi : i = e
      · subst hi
        rw [h] at hw
        simp [w] at hw
      · rw [finishOrder_entry_ne _ _ _ p hi]; exact h
    · exact h
  · exact h

/-- An entry other than the BARRIER's survives the end of a BARRIER. -/
theorem completeBarrier_entry_ne (p : Part) {e : Nat} (h : p.intake.barrier ≠ some e) :
    (completeBarrier p).entry? e = p.entry? e := by
  unfold completeBarrier
  split
  · rename_i i hi
    split
    · exact finishOrder_entry_ne _ _ _ p fun he => h (he ▸ hi)
    · rfl
  · rfl

/-- An entry in use survives a dispatch. -/
theorem dispatchOne_entry (p : Part) {e : Nat} {x : OrderEntry} (h : p.entry? e = some x) :
    (dispatchOne p).entry? e = some x := by
  unfold dispatchOne
  split
  · rename_i r rest i _ hi
    split
    · by_cases hie : i = e
      · subst hie
        obtain ⟨⟨a, ha, na⟩, -⟩ := lowestIndex_some hi
        simp only [Part.entry?, List.getD_eq_getElem?_getD, ha, Option.getD_some] at h
        subst h
        simp at na
      · simp only [Part.entry?, Part.onIntake_table, Part.onTable_table, OrderTable.place, List.getD_eq_getElem?_getD,
          List.getElem?_set_ne hie]
        simpa only [Part.entry?, List.getD_eq_getElem?_getD] using h
    · exact h
  · exact h

theorem dispatchAll_entry (n : Nat) (p : Part) {e : Nat} {x : OrderEntry} (h : p.entry? e = some x) :
    (dispatchAll n p).entry? e = some x := by
  induction n generalizing p with
  | zero => exact h
  | succ n ih => exact ih _ (dispatchOne_entry p h)

/-- A fetch, the status page, the drain and the output leave the Order Table alone. -/
theorem afterDispatch_table (p : Part) : (driveAttention (drainCheck (syncStatus (beginFetch p)))).table = p.table := by
  have fetch : (beginFetch p).table = p.table := by
    unfold beginFetch
    split
    · split <;> rfl
    · rfl
  have sync : ∀ q : Part, (syncStatus q).table = q.table := fun q => by unfold syncStatus; split <;> rfl
  exact (sync _).trans fetch

/-- An entry whose work is not a wait survives `finish`. -/
theorem finish_entry (p : Part) {e : Nat} {x : OrderEntry} (h : p.entry? e = some x) (w : x.work ≠ .waiting) :
    (finish p).entry? e = some x := by
  have key := dispatchAll_entry p.intake.holding.length _ (completeBarrier_entry p h w)
  unfold finish
  unfold Part.entry? at key ⊢
  rw [afterDispatch_table]
  exact key

/-- An entry in use that is not the BARRIER's survives `finish`. -/
theorem finish_entry_ne (p : Part) {e : Nat} {x : OrderEntry} (h : p.entry? e = some x)
    (b : p.intake.barrier ≠ some e) : (finish p).entry? e = some x := by
  have key := dispatchAll_entry p.intake.holding.length _ ((completeBarrier_entry_ne p b).trans h)
  unfold finish
  unfold Part.entry? at key ⊢
  rw [afterDispatch_table]
  exact key

/-! ### The shape of a command's effect -/

/-- The forms a part has after a command: as it was, ended with `finish`, or reset. -/
def Part.Shaped (p q : Part) : Prop :=
  q = p ∨ (∃ r, q = finish r) ∨ ∃ taken, q = p.afterReset taken ∨ q = p.engineReset taken

theorem Part.Shaped.same (p : Part) : p.Shaped p := .inl rfl
theorem Part.Shaped.ended {p : Part} (r : Part) : p.Shaped (finish r) := .inr (.inl ⟨r, rfl⟩)

theorem Part.Shaped.ite {p q r : Part} {c : Prop} [Decidable c] (h : p.Shaped q) (k : p.Shaped r) :
    p.Shaped (if c then q else r) := by
  split
  · exact h
  · exact k

theorem takeOrder_shaped (e : Nat) (owns : Nat → Bool) (f : OrderRecord → Part → Part) (p : Part) :
    p.Shaped (takeOrder e owns f p) := by
  unfold takeOrder
  split
  · exact .ite (.ended _) (.same p)
  · exact .same p

theorem answer_shaped (lane t : Nat) (ups : List Nat) (f : LaneRequest → Part → Part) (p : Part) :
    p.Shaped (answer lane t ups f p) := by
  unfold answer
  split
  · split
    · exact .ended _
    · exact .ended _
    · exact .same p
  · exact .same p

theorem issueOn_shaped (lane : Nat) (ups : List Nat) (g : Profile) (p : Part) : p.Shaped (issueOn lane ups g p) := by
  unfold issueOn
  dsimp only
  split
  · split
    · split
      · exact .ended _
      · exact .same p
    · exact .same p
  · exact .same p

theorem grantHead_shaped (p : Part) : p.Shaped (grantHead p) := by
  unfold grantHead
  split
  · split
    · split
      · exact .ended _
      · exact .same p
    · exact .same p
  · exact .same p

theorem endReadJob_shaped (e row : Nat) (ups : List Nat) (p : Part) : p.Shaped (endReadJob e row ups p) := by
  unfold endReadJob
  split
  · exact .ite (.ended _) (.ended _)
  · exact .same p

theorem launchContext_shaped (p : Part) : p.Shaped (launchContext p) := by
  unfold launchContext
  split
  · split
    · split
      · split
        · exact .ended _
        · exact .same p
      · split
        · exact .ended _
        · exact .same p
    · exact .same p
  · exact .same p

theorem launchBand_shaped (place : Nat) (p : Part) : p.Shaped (launchBand place p) := by
  unfold launchBand
  split
  · exact .ite (.ended _) (.same p)
  · exact .same p

/-- Every command answers a next state, with the queue as it was and the part in one of the three forms. -/
theorem exec_shaped (c : Instr) (s : State) :
    ∃ q, exec c s = .next { s with part := q } ∧ s.part.Shaped q := by
  cases c with
  | readExtent e => exact ⟨_, rfl, takeOrder_shaped ..⟩
  | writeExtent e => exact ⟨_, rfl, takeOrder_shaped ..⟩
  | loadProfile e => exact ⟨_, rfl, takeOrder_shaped ..⟩
  | memberState e => exact ⟨_, rfl, takeOrder_shaped ..⟩
  | startSweep e => exact ⟨_, rfl, takeOrder_shaped ..⟩
  | pauseSweep e => exact ⟨_, rfl, takeOrder_shaped ..⟩
  | resumeSweep e => exact ⟨_, rfl, takeOrder_shaped ..⟩
  | abandonSweep e => exact ⟨_, rfl, takeOrder_shaped ..⟩
  | setPace e => exact ⟨_, rfl, takeOrder_shaped ..⟩
  | checkpointNow e => exact ⟨_, rfl, takeOrder_shaped ..⟩
  | setRetryArea e => exact ⟨_, rfl, takeOrder_shaped ..⟩
  | report e n => exact ⟨_, rfl, takeOrder_shaped ..⟩
  | barrier e => exact ⟨_, rfl, takeOrder_shaped ..⟩
  | unknownOrderKind e => exact ⟨_, rfl, takeOrder_shaped ..⟩
  | anchorWrite v => exact ⟨_, rfl, .ended _⟩
  | nudge v => exact ⟨_, rfl, .ended _⟩
  | logTakenWrite v => exact ⟨_, rfl, .ended _⟩
  | alertRead a b => exact ⟨_, rfl, .ended _⟩
  | alertWrite v => exact ⟨_, rfl, .ended _⟩
  | controlRead a b => exact ⟨_, rfl, .ended _⟩
  | bind => exact ⟨_, rfl, .ended _⟩
  | unbind => exact ⟨_, rfl, .ended _⟩
  | clearChainFault => exact ⟨_, rfl, .ended _⟩
  | clearLogFault => exact ⟨_, rfl, .ended _⟩
  | clearBufferParity => exact ⟨_, rfl, .ended _⟩
  | clearRetryOverflow => exact ⟨_, rfl, .ended _⟩
  | clearSpareFault => exact ⟨_, rfl, .ended _⟩
  | clearCheckpointFault => exact ⟨_, rfl, .ended _⟩
  | engineReset n => exact ⟨_, rfl, .inr (.inr ⟨n, .inr rfl⟩)⟩
  | powerOnReset n => exact ⟨_, rfl, .inr (.inr ⟨n, .inl rfl⟩)⟩
  | hostLinkReset n => exact ⟨_, rfl, .inr (.inr ⟨n, .inl rfl⟩)⟩
  | registerWrite o w v => exact ⟨_, rfl, .ended _⟩
  | anchorRead b => exact ⟨_, rfl, .ite (.ended _) (.same _)⟩
  | unbindDrainEnd => exact ⟨_, rfl, .ended _⟩
  | recordFetch r => exact ⟨_, rfl, .ended _⟩
  | linkReread b => exact ⟨_, rfl, .ended _⟩
  | chainResumeRead b => exact ⟨_, rfl, .ended _⟩
  | detailWriteEnd e f => exact ⟨_, rfl, .ended _⟩
  | completionWordWriteEnd e f => exact ⟨_, rfl, .ended _⟩
  | reportWriteEnd e f => exact ⟨_, rfl, .ended _⟩
  | statusWordWriteEnd n f => exact ⟨_, rfl, .ended _⟩
  | profileFetch b =>
    refine ⟨_, rfl, ?_⟩
    split
    · exact .ite (.ended _) (.same _)
    · exact .same _
  | loadFlushLimit l => exact ⟨_, rfl, .ite (.ended _) (.same _)⟩
  | requestIssue l u =>
    refine ⟨_, rfl, ?_⟩
    split
    · exact issueOn_shaped ..
    · exact .same _
  | good l t ss u => exact ⟨_, rfl, answer_shaped ..⟩
  | medium l t i ss u => exact ⟨_, rfl, answer_shaped ..⟩
  | notReady l t u => exact ⟨_, rfl, answer_shaped ..⟩
  | flushed l => exact ⟨_, rfl, .ite (.same _) (.ite (.ended _) (.ended _))⟩
  | requestTimerExpiry l t u =>
    refine ⟨_, rfl, ?_⟩
    split
    · exact .ended _
    · exact .same _
  | reclaimFlushLimit l =>
    refine ⟨_, rfl, .ite ?_ (.same _)⟩
    split
    · exact .ended _
    · exact .same _
  | orderBandGrant => exact ⟨_, rfl, grantHead_shaped _⟩
  | reconstructionJobEnd o r u =>
    refine ⟨_, rfl, ?_⟩
    split
    · exact .ite (.ended _) (.same _)
    · exact endReadJob_shaped ..
  | deltaJobEnd e r u =>
    refine ⟨_, rfl, ?_⟩
    split
    · exact .ite (.ended _) (.ite (.ended _) (.ended _))
    · exact .same _
  | fullRowJobEnd e r u =>
    refine ⟨_, rfl, ?_⟩
    split
    · exact .ite (.ended _) (.ended _)
    · exact .same _
  | fullRowReconstructionJobEnd e r u =>
    refine ⟨_, rfl, ?_⟩
    split
    · refine .ite (.ended _) (.ite (.ended _) ?_)
      split
      · exact .ended _
      · exact .ended _
    · exact .same _
  | contextLaunch => exact ⟨_, rfl, launchContext_shaped _⟩
  | bandLaunch place => exact ⟨_, rfl, launchBand_shaped ..⟩
  | extensionJoinWriteEnd f => exact ⟨_, rfl, .ended _⟩
  | refillReadEnd b => exact ⟨_, rfl, .ended _⟩
  | checkpointWriteEnd r =>
    refine ⟨_, rfl, ?_⟩
    split
    · exact .ended _
    · exact .same _
  | checkpointReadEnd => exact ⟨_, rfl, .ite (.ended _) (.same _)⟩
  | enterPaused => exact ⟨_, rfl, .ite (.ended _) (.same _)⟩
  | enterHalted => exact ⟨_, rfl, .ite (.ended _) (.same _)⟩
  | windowTimerExpiry => exact ⟨_, rfl, .ite (.ended _) (.same _)⟩
  | logBodyWriteEnd f => exact ⟨_, rfl, .ite (.ended _) (.same _)⟩
  | logHeaderWriteEnd f => exact ⟨_, rfl, .ite (.ended _) (.same _)⟩
  | deliveryEnd e r u =>
    refine ⟨_, rfl, ?_⟩
    split
    · split
      · exact .ended _
      · exact .same _
    · exact .same _
  | gatherEnd e r u =>
    refine ⟨_, rfl, ?_⟩
    split
    · split
      · exact .ended _
      · exact .ite (.ended _) (.same _)
      · exact .same _
    · exact .same _

end Sys2Proof.Machine
end

