-- ==== Sys2Proof/Laws/Frame.lean ====
section
/-! SUPPORT. The frame of a command that ends with `finish`: it is the frame of what came before `finish`. -/

namespace Sys2Proof.Machine

/-- A command that ends with `finish` changes nothing but what it changed before. -/
theorem sameBut_finish {rs : List Region} {es : List Nat} {s : State} {q : Part}
    (orders : ∀ i x, i ∉ es → s.part.intake.barrier ≠ some i → s.part.entry? i = some x →
      q.entry? i = some x ∧ q.intake.barrier ≠ some i)
    (regs : .regs ∉ rs → q.regs = s.part.regs) (engine : .engine ∉ rs → q.engine.state = s.part.engine.state)
    (chain : .chain ∉ rs → q.intake.chain = s.part.intake.chain)
    (alerts : .alerts ∉ rs → q.alerts = { s.part.alerts with attention := q.alerts.attention })
    (geometry : .geometry ∉ rs → q.geometry = s.part.geometry) (buffer : .buffer ∉ rs → q.buffer = s.part.buffer)
    (lanes : .lanes ∉ rs → q.lanes = s.part.lanes) (locks : .locks ∉ rs → q.locks = s.part.locks)
    (sweep : .sweep ∉ rs → q.sweep = s.part.sweep) (retry : .retry ∉ rs → q.retry = s.part.retry)
    (findings : .findings ∉ rs → q.findings = s.part.findings) (store : .store ∉ rs → q.store = s.part.store)
    (pace : .pace ∉ rs → q.pace = s.part.pace) : SameBut rs es s { s with part := finish q } := by
  refine ⟨rfl, fun i x hi hb hx => ?_, fun h => ?_, fun h => ?_, fun h => ?_, fun h => ?_, fun h => ?_, fun h => ?_,
    fun h => ?_, fun h => ?_, fun h => ?_, fun h => ?_, fun h => ?_, fun h => ?_, fun h => ?_⟩
  · exact finish_entry_ne q (orders i x hi hb hx).1 (orders i x hi hb hx).2
  · exact (finish_regs q).trans (regs h)
  · exact (finish_engine_state q).trans (engine h)
  · have k : (finish q).intake.chain = s.part.intake.chain := (finish_chain q).trans (chain h)
    simp only [Intake.chain, Intake.mk.injEq] at k
    simp only [SameChain]
    rw [← k.1, ← k.2.1, ← k.2.2.1, ← k.2.2.2.1, ← k.2.2.2.2.2.2.1, ← k.2.2.2.2.2.2.2.1, ← k.2.2.2.2.2.2.2.2.2.2.1,
      ← k.2.2.2.2.2.2.2.2.2.2.2.1, ← k.2.2.2.2.2.2.2.2.2.2.2.2.1, ← k.2.2.2.2.2.2.2.2.2.2.2.2.2]
  · simp only [SameAlerts]
    rw [(finish_ended q).alerts, alerts h]
  · exact (finish_geometry q).trans (geometry h)
  · exact (finish_buffer q).trans (buffer h)
  · exact (finish_lanes q).trans (lanes h)
  · exact (finish_locks q).trans (locks h)
  · exact (finish_sweep q).trans (sweep h)
  · exact (finish_retry q).trans (retry h)
  · exact (finish_findings q).trans (findings h)
  · exact (finish_store q).trans (store h)
  · exact (finish_pace q).trans (pace h)

end Sys2Proof.Machine
end

