-- ==== Sys2Proof/Laws/Work.lean ====
section
/-! SUPPORT. What the part's own going on can do. `Work p q` says once, for every shared operation that no command aims at
the geometry or the tags, which changes it can make to the blocks that the laws of Safety.lean read; each operation has
one lemma here, and a law kept by every leaf of `Work` is kept by all of them. -/

namespace Sys2Proof.Machine

/-- Geometry (but for a load), lanes, locks, Retry List and pacing are equal, and what only a command of the host's or the
end of a write can change: the register window, the engine's state, the alert levels, mask and mode, the checkpoint slots
and the log's place; and the rows of the extent orders stay in order. -/
structure Part.Same (p q : Part) : Prop where
  regs : q.regs = p.regs
  engine : q.engine.state = p.engine.state
  levels : q.alerts.levels = p.alerts.levels
  mask : q.alerts.mask = p.alerts.mask
  pulseMode : q.alerts.pulseMode = p.alerts.pulseMode
  slots : q.store.slots = p.store.slots
  area : q.findings.area = p.findings.area
  writeIndex : q.findings.writeIndex = p.findings.writeIndex
  sequence : q.findings.sequence = p.findings.sequence
  profile : q.geometry.profile = p.geometry.profile
  members : q.geometry.members = p.geometry.members
  failed : q.geometry.failed = p.geometry.failed
  lanes : q.lanes = p.lanes
  locks : q.locks = p.locks
  retry : q.retry = p.retry
  pace : q.pace = p.pace
  bands : BandLaw p → BandLaw q

/-- The changes that shared operations make. -/
inductive Work : Part → Part → Prop
  /-- Nothing. -/
  | refl (p : Part) : Work p p
  /-- One after another. -/
  | trans {p q r : Part} : Work p q → Work q r → Work p r
  /-- A change outside the blocks the laws read. -/
  | other {p q : Part} (same : p.Same q) (window : q.sweep.window = p.sweep.window)
      (staged : q.findings.staged = p.findings.staged) : Work p q
  /-- Reservations and staged findings change, and their sum does not grow. -/
  | staging {p q : Part} (same : p.Same q)
      (sum : q.stagedCount + q.reservations ≤ p.stagedCount + p.reservations) : Work p q
  /-- One reservation is granted while a staging entry is free. -/
  | reserve {p q : Part} (same : p.Same q) (free : p.stagingFree)
      (sum : q.stagedCount + q.reservations ≤ p.stagedCount + p.reservations + 1) : Work p q
  /-- A lock request. -/
  | lockRequest (p : Part) (q : Requester) (s : Nat) (m : LockMode) : Work p (p.onLocks fun t => (t.request q s m).1)
  /-- A lock release. -/
  | lockRelease (p : Part) (q : Requester) : Work p (p.onLocks fun t => (t.release q).1)
  /-- A withdrawal. -/
  | lockWithdraw (p : Part) (q : Requester) : Work p (p.onLocks fun t => (t.withdraw q).1)
  /-- A lane changes without its tags. -/
  | lane (p : Part) (i : Nat) (f : Lane → Lane) (tags : ∀ l, (f l).tags = l.tags) : Work p (p.modLane i f)
  /-- The TARGET is made ONLINE. -/
  | online (p : Part) (slot : Nat) (target : p.targetSlot = some slot) :
      Work p (deriveFailed (p.modMember slot fun x => { x with state := .online }))
  /-- The Retry List changes flags, waiting joins or its detail, or lets a DMA end. -/
  | retryRest (p : Part) (f : RetryList → RetryList) (onChip : ∀ r, (f r).onChip = r.onChip)
      (count : ∀ r, (f r).count = r.count) (capacity : ∀ r, (f r).capacity = r.capacity)
      (busy : ∀ r, (f r).busy = r.busy ∨ (f r).busy = .idle) : Work p (p.onRetry f)
  /-- The Retry List is emptied. -/
  | retryEmptied (p : Part) : Work p (p.onRetry RetryList.emptied)
  /-- A join is placed on-chip at once. -/
  | retryPlaced (p : Part) (j : Join) (r : RetryList) (placed : p.retry.placeOnChip j = some r) :
      Work p (p.onRetry fun _ => r)
  /-- The entry a context took goes. -/
  | retryRemoved (p : Part) (place : Nat) : Work p (p.onRetry fun r => { r with onChip := r.withoutTaken place })
  /-- A join's write begins. -/
  | retryJoin (p : Part) (j : Join) (idle : p.retry.busy = .idle) (room : p.retry.count < p.retry.capacity) :
      Work p (p.onRetry fun r => r.beginJoin j)
  /-- A refill's read begins. -/
  | retryRefill (p : Part) (latched : Bool) (can : p.retry.canRefill latched = true) :
      Work p (p.onRetry fun r => { r with busy := .refill false })
  /-- A pacing window starts. -/
  | paceStart (p : Part) : Work p (p.onPace Pace.startWindow)
  /-- A pacing window is cut short. -/
  | paceStop (p : Part) : Work p (p.onPace Pace.stopWindow)

namespace Work

/-- A left fold of workings. -/
theorem foldl {α : Type} {f : Part → α → Part} (h : ∀ p a, Work p (f p a)) (l : List α) (p : Part) :
    Work p (l.foldl f p) := by
  induction l generalizing p with
  | nil => exact .refl p
  | cons a l ih => exact (h p a).trans (ih _)

/-- Either branch. -/
theorem ite {p q r : Part} {c : Prop} [Decidable c] (h : Work p q) (k : Work p r) : Work p (if c then q else r) := by
  split
  · exact h
  · exact k

theorem onEngine (p : Part) (f : Engine → Engine) (state : ∀ e, (f e).state = e.state) : Work p (p.onEngine f) :=
  .other ⟨rfl, state _, rfl, rfl, rfl, rfl, rfl, rfl, rfl, rfl, rfl, rfl, rfl, rfl, rfl, rfl, id⟩ rfl rfl
theorem onIntake (p : Part) (f : Intake → Intake) : Work p (p.onIntake f) :=
  .other ⟨rfl, rfl, rfl, rfl, rfl, rfl, rfl, rfl, rfl, rfl, rfl, rfl, rfl, rfl, rfl, rfl, id⟩ rfl rfl
theorem onTable (p : Part) (f : OrderTable → OrderTable) (bands : BandLaw p → BandLaw (p.onTable f)) :
    Work p (p.onTable f) :=
  .other ⟨rfl, rfl, rfl, rfl, rfl, rfl, rfl, rfl, rfl, rfl, rfl, rfl, rfl, rfl, rfl, rfl, bands⟩ rfl rfl
theorem onStatus (p : Part) (f : List StatusWord → List StatusWord) : Work p (p.onStatus f) :=
  .other ⟨rfl, rfl, rfl, rfl, rfl, rfl, rfl, rfl, rfl, rfl, rfl, rfl, rfl, rfl, rfl, rfl, id⟩ rfl rfl
theorem onAlerts (p : Part) (f : AlertUnit → AlertUnit) (levels : ∀ a, (f a).levels = a.levels)
    (mask : ∀ a, (f a).mask = a.mask) (pulseMode : ∀ a, (f a).pulseMode = a.pulseMode) : Work p (p.onAlerts f) :=
  .other ⟨rfl, rfl, levels _, mask _, pulseMode _, rfl, rfl, rfl, rfl, rfl, rfl, rfl, rfl, rfl, rfl, rfl, id⟩ rfl rfl
theorem onBuffer (p : Part) (f : Buffer → Buffer) : Work p (p.onBuffer f) :=
  .other ⟨rfl, rfl, rfl, rfl, rfl, rfl, rfl, rfl, rfl, rfl, rfl, rfl, rfl, rfl, rfl, rfl, id⟩ rfl rfl
theorem onStore (p : Part) (f : CheckpointStore → CheckpointStore) (slots : ∀ c, (f c).slots = c.slots) :
    Work p (p.onStore f) :=
  .other ⟨rfl, rfl, rfl, rfl, rfl, slots _, rfl, rfl, rfl, rfl, rfl, rfl, rfl, rfl, rfl, rfl, id⟩ rfl rfl
theorem onFreeCount (p : Part) (f : Nat → Nat) : Work p (p.onFreeCount f) :=
  .other ⟨rfl, rfl, rfl, rfl, rfl, rfl, rfl, rfl, rfl, rfl, rfl, rfl, rfl, rfl, rfl, rfl, id⟩ rfl rfl
theorem onGeometry (p : Part) (f : Geometry → Geometry) (profile : ∀ g, (f g).profile = g.profile)
    (members : ∀ g, (f g).members = g.members) (failed : ∀ g, (f g).failed = g.failed) : Work p (p.onGeometry f) :=
  .other ⟨rfl, rfl, rfl, rfl, rfl, rfl, rfl, rfl, rfl, profile _, members _, failed _, rfl, rfl, rfl, rfl, id⟩ rfl rfl
theorem onSweep (p : Part) (f : Sweep → Sweep) (window : ∀ s, (f s).window = s.window) : Work p (p.onSweep f) :=
  .other ⟨rfl, rfl, rfl, rfl, rfl, rfl, rfl, rfl, rfl, rfl, rfl, rfl, rfl, rfl, rfl, rfl, id⟩ (window _) rfl
theorem onFindings (p : Part) (f : Findings → Findings) (staged : ∀ x, (f x).staged = x.staged)
    (area : ∀ x, (f x).area = x.area) (writeIndex : ∀ x, (f x).writeIndex = x.writeIndex)
    (sequence : ∀ x, (f x).sequence = x.sequence) : Work p (p.onFindings f) :=
  .other ⟨rfl, rfl, rfl, rfl, rfl, rfl, area _, writeIndex _, sequence _, rfl, rfl, rfl, rfl, rfl, rfl, rfl, id⟩ rfl
    (staged _)

end Work

/-! ### The staging sum -/

/-- A context's reservation is marked. -/
def holdsReservation (c : Option Context) : Bool :=
  match c with
  | some x => x.reserved
  | none => false

theorem reservations_eq (p : Part) : p.reservations = (p.sweep.window.filter holdsReservation).length := rfl

/-- Changing one context does not add reservations when it adds none to any. -/
theorem modAt_reservations (f : Context → Context) (h : ∀ c, (f c).reserved = true → c.reserved = true)
    (l : List (Option Context)) (i : Nat) :
    ((modAt (Option.map f) l i).filter holdsReservation).length ≤ (l.filter holdsReservation).length := by
  induction l generalizing i with
  | nil => simp [modAt]
  | cons a l ih =>
    cases i with
    | zero =>
      cases a with
      | none => simp [modAt]
      | some c =>
        have := h c
        cases hf : (f c).reserved <;> cases hc : c.reserved <;>
          simp_all [modAt, holdsReservation]
    | succ i =>
      have := ih i
      simp only [modAt, List.filter_cons]
      split <;> simp_all

/-- A context in one more place adds at most one reservation. -/
theorem modAt_reserve (f : Context → Context) (l : List (Option Context)) (i : Nat) :
    ((modAt (Option.map f) l i).filter holdsReservation).length ≤ (l.filter holdsReservation).length + 1 := by
  induction l generalizing i with
  | nil => simp [modAt]
  | cons a l ih =>
    cases i with
    | zero => simp only [modAt, List.filter_cons]; split <;> split <;> (try simp only [List.length_cons]) <;> omega
    | succ i =>
      have := ih i
      simp only [modAt, List.filter_cons]
      split <;> simp_all

/-- A place given up takes its reservation with it. -/
theorem modAt_none_reservations (l : List (Option Context)) (i : Nat) :
    ((modAt (fun _ => none) l i).filter holdsReservation).length ≤ (l.filter holdsReservation).length := by
  induction l generalizing i with
  | nil => simp [modAt]
  | cons a l ih =>
    cases i with
    | zero => simp only [modAt, List.filter_cons]; split <;> split <;> simp_all [holdsReservation]
    | succ i =>
      have := ih i
      simp only [modAt, List.filter_cons]
      split <;> simp_all

/-- Changing every context does not add reservations when it adds none to any. -/
theorem map_reservations (f : Context → Context) (h : ∀ c, (f c).reserved = true → c.reserved = true)
    (l : List (Option Context)) :
    ((l.map (Option.map f)).filter holdsReservation).length ≤ (l.filter holdsReservation).length := by
  induction l with
  | nil => simp
  | cons a l ih =>
    cases a with
    | none => simpa [List.filter_cons, holdsReservation] using ih
    | some c =>
      have := h c
      cases hf : (f c).reserved <;> cases hc : c.reserved <;>
        simp_all [holdsReservation] <;> omega

theorem Work.modContext (p : Part) (place : Nat) (f : Context → Context)
    (h : ∀ c, (f c).reserved = true → c.reserved = true) : Work p (p.modContext place f) :=
  .staging ⟨rfl, rfl, rfl, rfl, rfl, rfl, rfl, rfl, rfl, rfl, rfl, rfl, rfl, rfl, rfl, rfl, id⟩
    (Nat.add_le_add_left (modAt_reservations f h p.sweep.window place) _)

theorem dropContext_work (place : Nat) (p : Part) : Work p (p.dropContext place) :=
  .staging ⟨rfl, rfl, rfl, rfl, rfl, rfl, rfl, rfl, rfl, rfl, rfl, rfl, rfl, rfl, rfl, rfl, id⟩
    (Nat.add_le_add_left (modAt_none_reservations p.sweep.window place) _)

theorem modSweepBand_work (p : Part) (place : Nat) (f : SweepBand → SweepBand) : Work p (p.modSweepBand place f) :=
  .modContext p place _ (by intro _ h; exact h)

/-! ### Order Table, alerts, frames -/

theorem modEntry_work (p : Part) (e : Nat) (f : OrderEntry → OrderEntry)
    (h : ∀ a x, p.entry? e = some a → (f a).work = .extent x → x.RowsInOrder) : Work p (p.modEntry e f) :=
  .onTable p _ (BandLaw.modEntry e f h)
theorem setWork_work (p : Part) (e : Nat) (w : OrderWork)
    (h : ∀ x, w = .extent x → x.RowsInOrder := by intro _ h; cases h) : Work p (p.setWork e w) :=
  modEntry_work p e _ fun _ x _ hw => h x hw
theorem setWriting_work (p : Part) (e : Nat) (w : OrderWork) (writes : OrderRecord → List HostWrite)
    (h : ∀ x, w = .extent x → x.RowsInOrder := by intro _ h; cases h) : Work p (p.setWriting e w writes) :=
  modEntry_work p e _ fun _ x _ hw => h x hw
theorem modExtent_work (p : Part) (e : Nat) (f : Extent → Extent)
    (h : ∀ x, p.extent? e = some x → x.RowsInOrder → (f x).RowsInOrder := by intro _ _ h; exact h) :
    Work p (p.modExtent e f) :=
  .onTable p _ (BandLaw.modExtent e f h)
theorem modBand_work (p : Part) (e : Nat) (f : OrderBand → OrderBand)
    (h : ∀ b, RowsOrdered b.rows → RowsOrdered (f b).rows := by intro _ h; exact h) : Work p (p.modBand e f) :=
  modExtent_work p e _ fun x _ hx => ⟨hx.1, fun b hb => by
    obtain ⟨a, ha, rfl⟩ := Option.map_eq_some_iff.mp hb
    exact h a (hx.2 a ha)⟩

theorem modRow_work (p : Part) (e row : Nat) (f : RowWork → RowWork) (h : ∀ w, (f w).row = w.row := by intro _; rfl) :
    Work p (p.modRow e row f) :=
  modBand_work p e _ fun b hb => hb.map _ fun w => by split <;> first | exact h w | rfl
theorem spend_work (p : Part) : Work p p.spend := .onFreeCount p _
theorem finishOrder_work (e : Nat) (st : Status) (a b : Option Word) (p : Part) : Work p (finishOrder e st a b p) :=
  (setWriting_work p e _ _).trans (spend_work _)
theorem raiseCause_work (c : Cause) (p : Part) : Work p (raiseCause c p) :=
  .onAlerts p _ (by intro; rfl) (by intro; rfl) (by intro; rfl)
theorem latch_work (c : Condition) (p : Part) : Work p (latch c p) :=
  .onAlerts p _ (by intro; rfl) (by intro; rfl) (by intro; rfl)
theorem modFrame_work (p : Part) (i : Nat) (f : Frame → Frame) : Work p (p.modFrame i f) := .onBuffer p _
theorem grantFrames_work (o : Owner) (fs : List Nat) (p : Part) : Work p (grantFrames o fs p) :=
  .foldl (fun q _ => modFrame_work q _ _) fs p
theorem releaseFrames_work (o : Owner) (p : Part) : Work p (releaseFrames o p) := .onBuffer p _
theorem loadFrame_work (i : Nat) (b : Block) (t : List Byte) (p : Part) : Work p (loadFrame i b t p) :=
  modFrame_work p _ _
theorem placeFrame_work (i : Nat) (b : Block) (t : List Byte) (p : Part) : Work p (placeFrame i b t p) :=
  modFrame_work p _ _
theorem strikeFrames_work (fs : List Nat) (p : Part) : Work p (strikeFrames fs p) :=
  .foldl (fun q _ => modFrame_work q _ _) fs p
theorem markUnfit_work (fs : List Nat) (p : Part) : Work p (markUnfit fs p) :=
  (Work.foldl (fun q _ => modFrame_work q _ _) fs p).trans (raiseCause_work _ _)
theorem spoilOutputs_work (bad outputs : List Nat) (p : Part) : Work p (spoilOutputs bad outputs p) :=
  (Work.foldl (fun q _ => modFrame_work q _ _) _ p).trans (spend_work _)

/-! ### Locks and extent orders (Grants.lean) -/

theorem askBand_work (e : Nat) (p : Part) : Work p (askBand e p) := by
  unfold askBand
  split
  · rename_i hx
    split
    · refine (modExtent_work _ _ _ fun y hy ordered => ?_).trans (.onBuffer _ _)
      cases Option.some.inj (hx.symm.trans hy)
      refine ⟨ordered.1.drop, fun b hb => ?_⟩
      cases hb
      simpa [RowsOrdered, Function.comp_def, RowWork.start] using ordered.1.take
    · exact .refl p
  · exact .refl p

/-- The touched rows of a stripe stand in increasing order. -/
theorem touchedRows_ordered (g : Profile) (b0 c s : Nat) : (touchedRows g b0 c s).Pairwise (· < ·) :=
  List.pairwise_lt_range.filter _

theorem orderGranted_work (e : Nat) (p : Part) : Work p (orderGranted e p) := by
  unfold orderGranted
  split
  · split
    · refine (modExtent_work _ _ _ ?_).trans (askBand_work _ _)
      exact fun _ _ h => ⟨touchedRows_ordered _ _ _ _, h.2⟩
    · exact .refl p
  · exact .refl p

theorem grantTo_work (q : Requester) (p : Part) : Work p (grantTo q p) := by
  cases q with
  | order e => exact orderGranted_work e p
  | context place => exact .modContext p place _ (by intro _ h; exact h)

theorem handGrants_work (qs : List Requester) (p : Part) : Work p (handGrants qs p) :=
  .foldl (fun q a => grantTo_work a q) qs p

theorem requestLock_work (q : Requester) (s : Nat) (m : LockMode) (p : Part) : Work p (requestLock q s m p) :=
  (Work.lockRequest p q s m).trans (handGrants_work _ _)

theorem releaseLock_work (q : Requester) (p : Part) : Work p (releaseLock q p) :=
  (Work.lockRelease p q).trans (handGrants_work _ _)

theorem withdrawLock_work (q : Requester) (p : Part) : Work p (withdrawLock q p) :=
  (Work.lockWithdraw p q).trans (handGrants_work _ _)

theorem giveUpLock_work (q : Requester) (p : Part) : Work p (giveUpLock q p) := by
  unfold giveUpLock
  split
  · exact releaseLock_work q p
  · split
    · exact withdrawLock_work q p
    · exact .refl p

theorem askStripe_work (e s : Nat) (p : Part) : Work p (askStripe e s p) := by
  unfold askStripe
  split
  · refine (modExtent_work _ _ _ ?_).trans (requestLock_work _ _ _ _)
    exact fun _ _ h => ⟨.nil, h.2⟩
  · exact .refl p

theorem completeExtent_work (e : Nat) (p : Part) : Work p (completeExtent e p) := by
  unfold completeExtent
  split
  · have h := giveUpLock_work (.order e) p
    dsimp only
    split
    · exact h.trans (finishOrder_work ..)
    · split
      · exact h.trans (finishOrder_work ..)
      · split
        · exact h.trans (finishOrder_work ..)
        · exact h.trans (finishOrder_work ..)
  · exact .refl p

theorem nextStripe_work (e : Nat) (p : Part) : Work p (nextStripe e p) := by
  unfold nextStripe
  split
  · split
    · split
      · exact ((modExtent_work _ _ _).trans (releaseLock_work _ _)).trans (askStripe_work _ _ _)
      · exact completeExtent_work e p
    · exact .refl p
  · exact .refl p

/-! ### The sweep (Sweep.lean, Checkpoint.lean) -/

theorem setSweepState_work (st : SweepState) (p : Part) : Work p (setSweepState st p) := .onSweep p _ (by intro; rfl)

theorem completePauses_work (p : Part) : Work p (completePauses p) :=
  (Work.foldl (fun q e => finishOrder_work e _ _ _ q) _ p).trans (.onSweep _ _ (by intro; rfl))

theorem enterIdle_work (p : Part) : Work p (enterIdle p) := by
  have h1 : Work p (p.onSweep fun s =>
      { s with state := .idle, pass := .main, watermark := 0, next := 0, window := List.replicate 4 none,
               haltSet := 0, settleCount := 0 }) :=
    .staging ⟨rfl, rfl, rfl, rfl, rfl, rfl, rfl, rfl, rfl, rfl, rfl, rfl, rfl, rfl, rfl, rfl, id⟩ (Nat.add_le_add_left (Nat.zero_le _) _)
  exact (((h1.trans (.retryEmptied _)).trans (.paceStop _)).trans
    (.onFindings _ (fun f => { f with waiting := [] }) (by intro; rfl) (by intro; rfl) (by intro; rfl) (by intro; rfl))).trans (completePauses_work _)

theorem targetOnline_work (p : Part) : Work p (targetOnline p) := by
  unfold targetOnline
  split
  · exact .online p _ ‹_›
  · exact .refl p

theorem enterDone_work (p : Part) : Work p (enterDone p) :=
  (((setSweepState_work _ p).trans (.onStore _ _ (by intro; rfl))).trans (targetOnline_work _)).trans (raiseCause_work _ _)

theorem beginStoreWrite_work (p : Part) : Work p (beginStoreWrite p) := by
  unfold beginStoreWrite
  split
  · exact .onStore p _ (by intro; rfl)
  · exact .refl p

theorem requestCheckpoint_work (p : Part) : Work p (requestCheckpoint p) := by
  unfold requestCheckpoint
  split
  · exact .onStore p _ (by intro; rfl)
  · split
    · exact .onStore p _ (by intro; rfl)
    · exact beginStoreWrite_work p

theorem requestSweepCheckpoint_work (p : Part) : Work p (requestSweepCheckpoint p) :=
  (Work.onStore p _ (by intro; rfl)).trans (requestCheckpoint_work _)

theorem requestOrderCheckpoint_work (e : Nat) (p : Part) : Work p (requestOrderCheckpoint e p) :=
  (Work.onStore p _ (by intro; rfl)).trans (requestCheckpoint_work _)

theorem enterFinishing_work (p : Part) : Work p (enterFinishing p) := by
  have h : Work p (requestSweepCheckpoint ((setSweepState .finishing p).onPace Pace.stopWindow)) :=
    ((setSweepState_work _ p).trans (.paceStop _)).trans (requestSweepCheckpoint_work _)
  unfold enterFinishing
  dsimp only
  split
  · exact h.trans (enterDone_work _)
  · exact h

theorem enterPausing_work (p : Part) : Work p (enterPausing p) := (setSweepState_work _ p).trans (.paceStop _)

theorem enterPass_work (p : Part) : Work p (enterPass p) := by
  have h : Work p ((setSweepState (if p.sweep.pass = .main then .sweeping else .retrying) p).onPace Pace.startWindow) :=
    (setSweepState_work _ p).trans (.paceStart _)
  exact .ite (h.trans (enterPausing_work _)) h

theorem passEnd_work (p : Part) : Work p (passEnd p) := by
  unfold passEnd
  split
  · split
    · split
      · exact enterFinishing_work p
      · exact ((Work.onSweep p (fun s => { s with state := .retrying, pass := .retry }) fun _ => rfl).trans
          (.paceStop _)).trans (.paceStart _)
    · exact .refl p
  · split
    · exact enterFinishing_work p
    · exact .refl p
  · exact .refl p

theorem contextReturns_work (p : Part) (place : Nat) : Work p (contextReturns p place) := by
  unfold contextReturns
  split
  · split
    · exact .refl p
    · split
      · split
        · exact (Work.modContext p place _ (by intro _ h; exact h)).trans (requestLock_work _ _ _ _)
        · exact .refl p
      · split
        · exact .refl p
        · exact .onFindings p _ (by intro; rfl) (by intro; rfl) (by intro; rfl) (by intro; rfl)
  · exact .refl p

theorem contextsReturn_work (p : Part) : Work p (contextsReturn p) := .foldl contextReturns_work _ p

theorem contextsGiveUp_work (p : Part) : Work p (contextsGiveUp p) :=
  .foldl (fun q _ => giveUpLock_work _ q) _ p

theorem leaveHalted_work (p : Part) : Work p (leaveHalted p) := by
  unfold leaveHalted
  split
  · exact .ite (.refl p) (((enterPass_work p).trans (contextsReturn_work _)).trans (passEnd_work _))
  · exact enterIdle_work p

theorem haltReset_reserved (c : Context) : c.haltReset.reserved = true → c.reserved = true := by
  simp [Context.haltReset]

theorem restHalted_work (p : Part) : Work p (restHalted p) := by
  have reset : ∀ q : Part, Work q (q.onSweep fun s => { s with window := s.window.map (Option.map Context.haltReset) }) :=
    fun q => .staging ⟨rfl, rfl, rfl, rfl, rfl, rfl, rfl, rfl, rfl, rfl, rfl, rfl, rfl, rfl, rfl, rfl, id⟩
      (Nat.add_le_add_left (map_reservations _ haltReset_reserved q.sweep.window) _)
  exact (((((setSweepState_work .halted p).trans (contextsGiveUp_work _)).trans (reset _)).trans
    (.onFindings _ (fun f => { f with waiting := [] }) (by intro; rfl) (by intro; rfl) (by intro; rfl)
      (by intro; rfl))).trans (requestCheckpoint_work _)).trans (raiseCause_work .sweepHalted _)

theorem enterHaltedState_work (p : Part) : Work p (enterHaltedState p) := by
  have h := (restHalted_work p).trans (completePauses_work _)
  unfold enterHaltedState
  dsimp only
  split
  · exact h.trans (leaveHalted_work _)
  · exact h

theorem joinHaltSet_work (c : HaltCause) (p : Part) : Work p (joinHaltSet c p) := by
  unfold joinHaltSet
  dsimp only
  split
  · exact (Work.onSweep p _ (by intro; rfl)).trans (latch_work _ _)
  · exact .onSweep p _ (by intro; rfl)

theorem haltCause_work (c : HaltCause) (p : Part) : Work p (haltCause c p) := by
  have h := joinHaltSet_work c p
  unfold haltCause
  split
  · exact (h.trans (setSweepState_work _ _)).trans (.paceStop _)
  · exact (h.trans (setSweepState_work _ _)).trans (.paceStop _)
  · exact h.trans (setSweepState_work _ _)
  · exact h.trans (restHalted_work _)
  · exact h
  · exact h
  · exact .refl p

theorem discardContext_work (place : Nat) (p : Part) : Work p (discardContext place p) :=
  ((giveUpLock_work _ p).trans (dropContext_work _ _)).trans (.onFindings _ _ (by intro; rfl) (by intro; rfl) (by intro; rfl) (by intro; rfl))

theorem abandonEnds_work (wrote : Bool) (p : Part) : Work p (abandonEnds wrote p) := by
  have h : Work p ((enterIdle p).onStore fun c => { c with sweepWait := none }) := (enterIdle_work p).trans (.onStore _ _ (by intro; rfl))
  unfold abandonEnds
  dsimp only
  split
  · exact (h.trans (.onSweep _ _ (by intro; rfl))).trans (finishOrder_work ..)
  · exact h

theorem abandonCheck_work (p : Part) : Work p (abandonCheck p) := by
  unfold abandonCheck
  split
  · have h := Work.retryEmptied p
    dsimp only
    split
    · exact h.trans (abandonEnds_work _ _)
    · split
      · exact h.trans (abandonEnds_work _ _)
      · exact h
  · exact .refl p

theorem abandonDiscards_work (p : Part) (place : Nat) : Work p (abandonDiscards p place) := by
  unfold abandonDiscards
  split
  · split
    · exact discardContext_work place p
    · exact .refl p
  · exact .refl p

theorem advanceWatermark_work (n : Nat) (p : Part) : Work p (advanceWatermark n p) := by
  induction n generalizing p with
  | zero => exact .refl p
  | succ n ih =>
    unfold advanceWatermark
    split
    · exact ((dropContext_work _ p).trans (.onSweep _ _ (by intro; rfl))).trans (ih _)
    · exact .refl p

/-- A reservation given back frees at least the place the finding takes. -/
theorem unreserve_modAt (l : List (Option Context)) (i : Nat) (c : Context) (h : l.getD i none = some c)
    (hr : c.reserved = true) :
    ((modAt (Option.map fun x => { x with reserved := false }) l i).filter holdsReservation).length + 1 ≤
      (l.filter holdsReservation).length := by
  induction l generalizing i with
  | nil => simp at h
  | cons a l ih =>
    cases i with
    | zero =>
      simp only [List.getD_cons_zero] at h
      subst h
      simp [modAt, holdsReservation, hr]
    | succ i =>
      simp only [List.getD_cons_succ] at h
      have := ih i h
      simp only [modAt, List.filter_cons]
      split <;> simp_all

theorem stageFinding_work (place : Nat) (p : Part) : Work p (stageFinding place p) := by
  unfold stageFinding
  split
  · rename_i c hc
    dsimp only
    split
    · rename_i hf
      simp only [Bool.and_eq_true] at hf
      refine .staging ⟨rfl, rfl, rfl, rfl, rfl, rfl, rfl, rfl, rfl, rfl, rfl, rfl, rfl, rfl, rfl, rfl, id⟩ ?_
      have := unreserve_modAt p.sweep.window place c hc hf.2
      simp only [Part.stagedCount, reservations_eq, Part.onFindings_findings, Part.onFindings_sweep, Part.modContext,
        Part.onSweep_findings, Part.onSweep_sweep, List.length_append, List.length_singleton]
      omega
    · exact .modContext p place _ fun _ h => by simp at h
  · exact .refl p

theorem countSettlement_work (p : Part) : Work p (countSettlement p) := by
  unfold countSettlement
  split
  · split
    · exact .onSweep p _ (by intro; rfl)
    · split
      · exact (Work.onSweep p _ (by intro; rfl)).trans (requestCheckpoint_work _)
      · exact .onSweep p _ (by intro; rfl)
  · exact .refl p

theorem settleRest_work (place : Nat) (p : Part) : Work p (settleRest place p) := by
  unfold settleRest
  split
  · rename_i c _
    dsimp only
    have staged := (stageFinding_work place p).trans
      (Work.modContext _ place (fun x => { x with settled := true, joining := false }) (by intro _ h; exact h))
    have moved : Work p (if c.source = .main then
        passEnd (advanceWatermark 4
          ((stageFinding place p).modContext place fun x => { x with settled := true, joining := false }))
        else (stageFinding place p).modContext place fun x => { x with settled := true, joining := false }) :=
      .ite ((staged.trans (advanceWatermark_work _ _)).trans (passEnd_work _)) staged
    have counted := (moved.trans (releaseLock_work (.context place) _)).trans (countSettlement_work _)
    have ended := Work.ite (c := c.source = .retry)
      ((counted.trans (dropContext_work place _)).trans (passEnd_work _)) counted
    exact .ite ((ended.trans (discardContext_work place _)).trans (abandonCheck_work _)) ended
  · exact .refl p

theorem settle_work (place : Nat) (p : Part) : Work p (settle place p) := by
  unfold settle
  split
  · split
    · dsimp only
      split
      · exact (Work.retryPlaced p _ _ ‹_›).trans (settleRest_work _ _)
      · exact (Work.modContext p place _ (by intro _ h; exact h)).trans
          (.retryRest _ _ (by intro; rfl) (by intro; rfl) (by intro; rfl) (by intro; exact .inl rfl))
    · split
      · exact (Work.retryRemoved p place).trans (settleRest_work _ _)
      · exact settleRest_work place p
  · exact .refl p

theorem alertOverflow_work (d : OverflowDetail) (p : Part) : Work p (alertOverflow d p) :=
  .ite (.refl p) ((latch_work _ _).trans (raiseCause_work _ _))

theorem retryOverflow_work (d : OverflowDetail) (p : Part) : Work p (retryOverflow d p) :=
  ((Work.retryRest p (fun r => { r with overflow := true, detail := d }) (by intro; rfl) (by intro; rfl) (by intro; rfl)
    (by intro; exact .inl rfl)).trans (alertOverflow_work _ _)).trans (haltCause_work _ _)

theorem refuseJoin_work (j : Join) (d : OverflowDetail) (p : Part) : Work p (refuseJoin j d p) := by
  have h : Work p (giveUpLock (.context j.place)
      (retryOverflow d (p.modContext j.place fun x => { x with joining := false }))) :=
    ((Work.modContext p j.place _ (by intro _ h; exact h)).trans (retryOverflow_work _ _)).trans (giveUpLock_work _ _)
  unfold refuseJoin
  dsimp only
  split
  · exact (h.trans (discardContext_work _ _)).trans (abandonCheck_work _)
  · exact h

theorem takeJoins_work (fuel : Nat) (p : Part) : Work p (takeJoins fuel p) := by
  induction fuel generalizing p with
  | zero => exact .refl p
  | succ n ih =>
    unfold takeJoins
    split
    · exact .refl p
    · rename_i j rest _
      split
      · rename_i hidle
        have h : Work p (p.onRetry fun r => { r with joins := rest }) :=
          .retryRest p _ (by intro; rfl) (by intro; rfl) (by intro; rfl) (by intro; exact .inl rfl)
        dsimp only
        split
        · exact (h.trans (refuseJoin_work _ _ _)).trans (ih _)
        · split
          · exact (h.trans (refuseJoin_work _ _ _)).trans (ih _)
          · refine h.trans (.retryJoin _ j ?_ ?_)
            · simp only [Bool.and_eq_true, decide_eq_true_eq] at hidle
              exact hidle.1
            · simpa using ‹¬p.retry.capacity ≤ p.retry.count›
      · exact .refl p

theorem takeRefill_work (p : Part) : Work p (takeRefill p) := by
  unfold takeRefill
  split
  · rename_i h
    exact .retryRefill p _ (Bool.and_eq_true _ _ ▸ h).1
  · exact .refl p

theorem sweepBandEnds_work (place : Nat) (p : Part) : Work p (sweepBandEnds place p) := by
  unfold sweepBandEnds
  split
  · rename_i c _ _ _
    have h : Work p ((releaseFrames (.sweepBand place) p).modContext place fun x => { x with band := none }) :=
      (releaseFrames_work _ p).trans (.modContext _ _ _ (by intro _ h; exact h))
    dsimp only
    split
    · exact (h.trans (discardContext_work _ _)).trans (abandonCheck_work _)
    · split
      · exact h
      · exact (h.trans (.modContext _ _ _ (by intro _ h; exact h))).trans (settle_work _ _)
  · exact .refl p

/-! ### The Member Port's completions (Port.lean) -/

theorem stopOrder_work (e : Nat) (c : StopCause) (p : Part) : Work p (stopOrder e c p) := modExtent_work p e _

theorem recordResult_work (o : Owner) (row slot : Nat) (r : BlockResult) (p : Part) :
    Work p (recordResult o row slot r p) := by
  cases o with
  | sweepBand place => exact modSweepBand_work p place _
  | orderBand e => exact modRow_work p e row _

theorem discardSweepBand_work (place : Nat) (p : Part) : Work p (discardSweepBand place p) :=
  (((spoilOutputs_work _ _ p).trans (modSweepBand_work _ place _)).trans (latch_work _ _)).trans (haltCause_work _ _)

theorem strikeRow_work (e row : Nat) (p : Part) : Work p (strikeRow e row p) :=
  (modRow_work p e row _).trans (stopOrder_work _ _ _)

theorem frameError_work (o : Owner) (row : Nat) (fs : List Nat) (p : Part) : Work p (frameError o row fs p) := by
  cases o with
  | sweepBand place => exact (markUnfit_work fs p).trans (discardSweepBand_work _ _)
  | orderBand e => exact (markUnfit_work fs p).trans (strikeRow_work _ _ _)

theorem completeWrite_work (q : LaneRequest) (good : Bool) (p : Part) : Work p (completeWrite q good p) := by
  unfold completeWrite
  split
  · split
    · refine .modContext p _ _ fun c h => ?_
      split at h <;> simpa using h
    · exact .refl p
  · exact .refl p

theorem completeErased_work (q : LaneRequest) (k : ErasureKind) (p : Part) : Work p (completeErased q k p) := by
  unfold completeErased
  split
  · exact completeWrite_work q false p
  · exact .foldl (fun x _ => recordResult_work _ _ _ _ x) _ p

theorem joinTail_tags (l : Lane) (q : LaneRequest) : (l.joinTail q).tags = l.tags := by
  unfold Lane.joinTail; split <;> rfl

theorem joinHead_tags (l : Lane) (q : LaneRequest) : (l.joinHead q).tags = l.tags := by
  unfold Lane.joinHead; split <;> rfl

theorem reclaim_tags (l : Lane) : l.reclaim.tags = l.tags := by
  simp only [Lane.reclaim, apply_ite Lane.tags, ite_self]

theorem handRequest_work (q : LaneRequest) (p : Part) : Work p (handRequest q p) := by
  unfold handRequest
  split
  · exact completeErased_work q .absent p
  · exact .lane p _ _ fun l => joinTail_tags l q

theorem handRequests_work (qs : List LaneRequest) (p : Part) : Work p (handRequests qs p) :=
  .foldl (fun x q => handRequest_work q x) qs p

theorem reclaimLane_work (lane : Nat) (p : Part) : Work p (reclaimLane lane p) := .lane p lane _ reclaim_tags

theorem retryRequest_work (q : LaneRequest) (p : Part) : Work p (retryRequest q p) :=
  .lane p _ _ fun l => joinHead_tags l _

/-! ### Bands go on (Bands.lean) -/

theorem classifySweepRow_work (place : Nat) (g : Profile) (c : Context) (b : SweepBand) (ups : List Nat) (p : Part)
    (row : Nat) : Work p (classifySweepRow place g c b ups p row) := by
  have h : Work p (noteInvolved place g b row p) := .modContext p place _ (by intro _ h; exact h)
  unfold classifySweepRow
  dsimp only
  split
  · exact h
  · exact h.trans (modSweepBand_work _ _ _)
  · exact h.trans (.modContext _ _ _ (by intro _ h; exact h))
  · refine (h.trans (q := noteInvolved place g b row p) ?_).trans (modSweepBand_work _ _ _)
    refine Work.trans ?_ (.modContext _ _ _ (by intro _ h; exact h))
    split
    · exact (placeFrame_work _ _ _ _).trans (strikeFrames_work _ _)
    · exact .refl _

theorem writeSweepBand_work (place : Nat) (p : Part) : Work p (writeSweepBand place p) := by
  unfold writeSweepBand
  split
  · split
    · dsimp only
      split
      · exact frameError_work _ _ _ p
      · exact (modSweepBand_work _ _ _).trans (handRequests_work _ _)
    · exact .refl p
  · exact .refl p

theorem classifySweepBand_work (place : Nat) (ups : List Nat) (p : Part) : Work p (classifySweepBand place ups p) := by
  unfold classifySweepBand
  split
  · rename_i g c _ _
    split
    · rename_i b _
      have h : Work p (b.rows.foldl (classifySweepRow place g c b ups)
          (p.modSweepBand place fun x => { x with stage := .rebuilding })) :=
        (modSweepBand_work _ _ _).trans (.foldl (classifySweepRow_work place g c b ups) _ _)
      dsimp only
      split
      · exact h.trans (writeSweepBand_work _ _)
      · exact h
    · exact .refl p
  · exact .refl p

theorem endSweepBand_work (place : Nat) (p : Part) : Work p (endSweepBand place p) := by
  unfold endSweepBand
  split
  · split
    · split
      · exact sweepBandEnds_work place p
      · exact .refl p
    · exact .refl p
  · exact .refl p

theorem advanceSweepBand_work (ups : List Nat) (p : Part) (place : Nat) : Work p (advanceSweepBand ups p place) := by
  unfold advanceSweepBand
  split
  · split
    · dsimp only
      split
      · exact (classifySweepBand_work place ups p).trans (endSweepBand_work place _)
      · exact endSweepBand_work place p
    · exact .refl p
  · exact .refl p

theorem placeSweepOutputs_work (g : Profile) (s row : Nat) (b : SweepBand) (r : RowBlocks) (w : List Nat) (p : Part) :
    Work p (placeSweepOutputs g s row b r w p) := by
  refine .foldl (fun x s => ?_) w p
  dsimp only
  split
  · exact placeFrame_work _ _ _ x
  · exact .refl x

theorem endSweepJob_work (place row : Nat) (ups : List Nat) (p : Part) : Work p (endSweepJob place row ups p) := by
  unfold endSweepJob
  split
  · rename_i g c _ _
    split
    · rename_i b _
      split
      · rename_i j _
        have hs := strikeFrames_work ups p
        dsimp only
        split
        · exact ((hs.trans (modSweepBand_work _ _ _)).trans (spoilOutputs_work _ _ _)).trans (frameError_work _ _ _ _)
        · have h : Work p (match reconstructRow ((strikeFrames ups p).rowView g c.stripe b.places row j.erased) with
              | some r => placeSweepOutputs g c.stripe row b r j.wanted (strikeFrames ups p)
              | none => strikeFrames ups p) := by
            split
            · exact hs.trans (placeSweepOutputs_work _ _ _ _ _ _ _)
            · exact hs
          have h2 := h.trans (modSweepBand_work _ place
            (fun x => { x with jobs := b.jobs.filter (fun x => x.row ≠ row) }))
          split
          · exact h2.trans (writeSweepBand_work _ _)
          · exact h2
      · exact .refl p
    · exact .refl p
  · exact .refl p

theorem askReads_work (g : Profile) (e s : Nat) (pl : List FramePlace) (asks : List (Nat × List Nat)) (p : Part) :
    Work p (askReads g e s pl asks p) :=
  (Work.foldl (fun x _ => modRow_work x _ _ _) asks p).trans (handRequests_work _ _)

theorem beginReadBand_work (e : Nat) (v : BandView) (p : Part) : Work p (beginReadBand e v p) :=
  ((Work.foldl (fun x _ => modRow_work x _ _ _) _ p).trans (askReads_work _ _ _ _ _ _)).trans (askReads_work _ _ _ _ _ _)

theorem enterReconstruction_work (e : Nat) (v : BandView) (p : Part) : Work p (enterReconstruction e v p) :=
  (Work.foldl (fun x _ => modRow_work x _ _ _) _ p).trans (askReads_work _ _ _ _ _ _)

theorem countLost_work (e : Nat) (l : List Nat) (p : Part) : Work p (countLost e l p) := modExtent_work p e _

theorem advanceReadRow_work (e : Nat) (v : BandView) (p : Part) (w : RowWork) : Work p (advanceReadRow e v p w) := by
  unfold advanceReadRow
  split
  · exact modRow_work p e _ _
  · split
    · dsimp only
      split
      · exact (modRow_work p e _ _).trans (countLost_work _ _ _)
      · exact modRow_work p e _ _
    · exact .refl p

theorem setBandDma_work (e : Nat) (d : BandDma) (p : Part) : Work p (setBandDma e d p) := modBand_work p e _

theorem writeRow_work (e row : Nat) (p : Part) : Work p (writeRow e row p) := by
  unfold writeRow
  split
  · split
    · dsimp only
      split
      · exact frameError_work _ _ _ p
      · exact (modRow_work p e row _).trans (handRequests_work _ _)
    · exact .refl p
  · exact .refl p

theorem handJob_work (e row : Nat) (j : RowJob) (p : Part) : Work p (handJob e row j p) := modRow_work p e row _

theorem moveToMethod_work (e : Nat) (v : BandView) (m : Method) (p : Part) (w : RowWork) :
    Work p (moveToMethod e v m p w) := modRow_work p e _ _

theorem moveRows_work (e : Nat) (v : BandView) (m : Method) (rows : List RowWork) (p : Part) :
    Work p (moveRows e v m rows p) :=
  (Work.foldl (moveToMethod_work e v m) rows p).trans (handRequests_work _ _)

theorem advanceDelta_work (e : Nat) (v : BandView) (p : Part) (w : RowWork) : Work p (advanceDelta e v p w) := by
  unfold advanceDelta
  dsimp only
  split
  · exact writeRow_work e _ p
  · exact handJob_work e _ _ p

theorem handReconstruction_work (e : Nat) (v : BandView) (p : Part) (w : RowWork) :
    Work p (handReconstruction e v p w) := handJob_work e _ _ p

theorem advanceDeltas_work (e : Nat) (p : Part) : Work p (advanceDeltas e p) := by
  unfold advanceDeltas
  split
  · exact .foldl (advanceDelta_work e _) _ p
  · exact .refl p

theorem advanceFulls_work (e : Nat) (p : Part) : Work p (advanceFulls e p) := by
  unfold advanceFulls
  split
  · exact (Work.foldl (fun x w => handJob_work e _ _ x) _ p).trans (moveRows_work _ _ _ _ _)
  · exact .refl p

theorem advanceReconstructions_work (e : Nat) (p : Part) : Work p (advanceReconstructions e p) := by
  unfold advanceReconstructions
  split
  · exact .foldl (handReconstruction_work e _) _ p
  · exact .refl p

theorem finishWrites_work (e : Nat) (p : Part) : Work p (finishWrites e p) := by
  unfold finishWrites
  split
  · refine .foldl (fun x w => ?_) _ p
    split
    · exact modRow_work x e _ _
    · exact .refl x
  · exact .refl p

theorem orderBandEnds_work (e : Nat) (v : BandView) (p : Part) : Work p (orderBandEnds e v p) := by
  have h := (modExtent_work p e (fun x => { x with band := none, rowsDone := x.rowsDone + leadingDone v.band.rows })
    fun _ _ h => ⟨h.1, fun _ hb => by cases hb⟩).trans (releaseFrames_work (.orderBand e) _)
  unfold orderBandEnds
  dsimp only
  split
  · exact h.trans (completeExtent_work _ _)
  · split
    · exact h.trans (askBand_work _ _)
    · exact h.trans (nextStripe_work _ _)

theorem endOrderBand_work (e : Nat) (p : Part) : Work p (endOrderBand e p) := by
  unfold endOrderBand
  split
  · split
    · exact orderBandEnds_work e _ p
    · exact .refl p
  · exact .refl p

theorem beginDelivery_work (e : Nat) (p : Part) : Work p (beginDelivery e p) := by
  unfold beginDelivery
  split
  · split
    · split
      · exact modBand_work p e _ fun b h => h.map _ fun w => by split <;> rfl
      · exact setBandDma_work e _ p
    · exact .refl p
  · exact .refl p

theorem advanceReads_work (e : Nat) (p : Part) : Work p (advanceReads e p) := by
  unfold advanceReads
  split
  · rename_i v _
    have h := enterReconstruction_work e v p
    dsimp only
    split
    · exact h.trans (.foldl (advanceReadRow_work e _) _ _)
    · exact h
  · exact .refl p

theorem advanceOrderBand_work (p : Part) (e : Nat) : Work p (advanceOrderBand p e) := by
  unfold advanceOrderBand
  split
  · split
    · split
      · exact ((((advanceDeltas_work e p).trans (advanceFulls_work e _)).trans (advanceReconstructions_work e _)).trans
          (finishWrites_work e _)).trans (endOrderBand_work e _)
      · exact ((advanceReads_work e p).trans (beginDelivery_work e _)).trans (endOrderBand_work e _)
    · exact .refl p
  · exact .refl p

theorem advanceBands_work (ups : List Nat) (p : Part) : Work p (advanceBands ups p) :=
  (Work.foldl (advanceSweepBand_work ups) _ p).trans (.foldl advanceOrderBand_work _ _)

end Sys2Proof.Machine
end

