-- ==== Sys2Proof/Laws/Reach.lean ====
section
/-! SUPPORT. What a command can do. `Reach p q` adds to `Work` the changes that only a command's own effect makes: to the
Member Table, the tags, a profile's installation, the pacing parameters, the Retry List's extension, the registers, a
reset. `exec_reach` says that no command does anything else, and which commands may touch what: a law kept by every leaf
is kept by every step. -/

namespace Sys2Proof.Machine

/-- The changes that commands make, where a command touches `k`. -/
inductive Reach (k : List Touch) : Part → Part → Prop
  /-- A shared operation's. -/
  | work {p q : Part} : Work p q → Reach k p q
  /-- One after another. -/
  | trans {p q r : Part} : Reach k p q → Reach k q r → Reach k p r
  /-- A register changes. -/
  | regs (h : .regs ∈ k) (p : Part) (f : Registers → Registers) : Reach k p (p.onRegs f)
  /-- The engine changes. -/
  | engine (h : .engine ∈ k) (p : Part) (f : Engine → Engine) : Reach k p (p.onEngine f)
  /-- The log's place changes, and no finding is staged. -/
  | log (h : .log ∈ k) (p : Part) (f : Findings → Findings) (staged : ∀ x, (f x).staged.length ≤ x.staged.length) :
      Reach k p (p.onFindings f)
  /-- Levels, mask or mode change. -/
  | alerts (h : .alerts ∈ k) (p : Part) (f : AlertUnit → AlertUnit) : Reach k p (p.onAlerts f)
  /-- Byte writes reach the checkpoint slots. -/
  | slots (h : .slots ∈ k) (p : Part) (f : CheckpointStore → CheckpointStore) : Reach k p (p.onStore f)
  /-- A medium error is counted. -/
  | medium (h : .counters ∈ k) (p : Part) (slot : Nat) : Reach k p (countMedium slot p)
  /-- A trailer mismatch is counted. -/
  | trailer (h : .counters ∈ k) (p : Part) (slot : Nat) : Reach k p (countTrailer slot p)
  /-- A timeout is counted, against the installed absence threshold. -/
  | timeout (h : .counters ∈ k) (p : Part) (slot : Nat) (g : Profile) (profile : p.geometry.profile = some g) :
      Reach k p (countTimeout slot g.absence p)
  /-- The consecutive timeouts start again. -/
  | consecutive (h : .counters ∈ k) (p : Part) (slot : Nat) : Reach k p (clearConsecutive slot p)
  /-- The counters are cleared. -/
  | cleared (h : .counters ∈ k) (p : Part) (slot : Nat) : Reach k p (clearCounters slot p)
  /-- An ONLINE or TARGET member is made ABSENT. -/
  | absent (p : Part) (slot : Nat) (present : (p.member slot).state = .online ∨ (p.member slot).state = .target) :
      Reach k p (deriveFailed (p.modMember slot fun x => { x with state := .absent }))
  /-- A lane closes. -/
  | close (h : .tags ∈ k) (p : Part) (lane : Nat) : Reach k p (p.modLane lane Lane.close)
  /-- A tag becomes FREE. -/
  | free (h : .tags ∈ k) (p : Part) (lane tag : Nat) : Reach k p (setTag lane tag .free p)
  /-- A tag becomes QUARANTINED. -/
  | quarantine (h : .tags ∈ k) (p : Part) (lane tag : Nat) : Reach k p (setTag lane tag .quarantined p)
  /-- A tag becomes ISSUED while the lane depth limit allows it. -/
  | issue (h : .tags ∈ k) (p : Part) (lane tag : Nat) (q : LaneRequest) (sent : List Sector) (g : Profile)
      (profile : p.geometry.profile = some g) (room : (p.lane lane).outstanding < g.depth) :
      Reach k p (setTag lane tag (.issued q sent) p)
  /-- A FLUSHED is taken. -/
  | flushed (h : .tags ∈ k) (p : Part) (lane : Nat) : Reach k p (p.modLane lane Lane.flushed)
  /-- The Geometry Unit and the Member Port take a profile that passed its checks. -/
  | install (h : .profile ∈ k) (p : Part) (b : List Byte) (passed : profileFail b = none) (f : Geometry → Geometry)
      (profile : ∀ u, (f u).profile = some (profileOf b)) (members : ∀ u, (f u).members = memberTable (profileOf b))
      (failed : ∀ u, (f u).failed = false) :
      Reach k p ((p.onGeometry f).onLanes fun ls => installLanes (profileOf b) 0 ls)
  /-- Its pacing parameters are installed. -/
  | paceProfile (p : Part) (b : List Byte) (passed : profileFail b = none) :
      Reach k p (p.onPace fun c => c.installProfile (profileOf b).pace)
  /-- A sweep starts at B0. -/
  | paceSweep (p : Part) : Reach k p (p.onPace Pace.startSweep)
  /-- A window ends. -/
  | paceEnd (p : Part) (backlog : Nat) : Reach k p (p.onPace fun c => c.windowEnd backlog)
  /-- A band takes its rows from the remaining budget. -/
  | paceTake (p : Part) (n : Nat) : Reach k p (p.onPace fun c => { c with remaining := c.remaining - n })
  /-- A SET PACE whose fields pass. -/
  | paceSet (p : Part) (f : PaceFields) (passed : paceFieldsFail f = none) (restart : Bool) :
      Reach k p (p.onPace fun c => if restart then c.restart (paceSet f) else c.offer (paceSet f))
  /-- A retry area is installed while the extension is empty. -/
  | retryInstall (p : Part) (address : Word) (capacity : Nat) (empty : p.retry.extensionInUse = false)
      (still : p.retry.refilling = false) : Reach k p (p.onRetry fun r => r.install address capacity)
  /-- A join written to the extension is accepted. -/
  | retryAccept (p : Part) (j : Join) (busy : p.retry.busy = .join j false) : Reach k p (p.onRetry fun r => r.accept j)
  /-- A refill brings an entry on-chip. -/
  | retryRefilled (p : Part) (e : RetryEntry) (busy : p.retry.busy = .refill false) :
      Reach k p (p.onRetry fun r => r.refill e)
  /-- A context takes the oldest entry. -/
  | retryTaken (p : Part) (place : Nat) (e : RetryEntry) (l : List RetryEntry)
      (taken : takeOldest place p.retry.onChip = some (e, l)) : Reach k p (p.onRetry fun r => { r with onChip := l })
  /-- START SWEEP empties the Retry List and clears its flags. -/
  | retryStart (p : Part) (latched : Bool) : Reach k p (p.onRetry fun r => r.startSweep latched)
  /-- A reset. -/
  | reset (h : .reset ∈ k) (p : Part) (taken : Nat) : Reach k p (p.afterReset taken)
  /-- An ENGINE RESET. -/
  | engineReset (h : .reset ∈ k) (p : Part) (taken : Nat) : Reach k p (p.engineReset taken)

namespace Reach

variable {k : List Touch}

theorem refl (p : Part) : Reach k p p := .work (.refl p)

/-- A left fold. -/
theorem foldl {α : Type} {f : Part → α → Part} (h : ∀ p a, Reach k p (f p a)) (l : List α) (p : Part) :
    Reach k p (l.foldl f p) := by
  induction l generalizing p with
  | nil => exact .refl p
  | cons a l ih => exact (h p a).trans (ih _)

/-- Either branch. -/
theorem ite {p q r : Part} {c : Prop} [Decidable c] (h : Reach k p q) (j : Reach k p r) :
    Reach k p (if c then q else r) := by
  split
  · exact h
  · exact j

/-- A shared operation after a command's own effect. -/
theorem step {p q r : Part} (h : Reach k p q) (w : Work q r) : Reach k p r := h.trans (.work w)

end Reach

variable {k : List Touch}

/-! ### Absence (Absent.lean) -/

theorem completeAbsent_work (qs : List LaneRequest) (p : Part) : Work p (completeAbsent qs p) :=
  .foldl (fun x q => completeErased_work q .absent x) qs p

theorem closeLane_reach (h : .tags ∈ k) (lane : Nat) (p : Part) : Reach k p (closeLane lane p) :=
  (Reach.close h p lane).step (completeAbsent_work _ _)

theorem leaveAtStop_work (p : Part) (e : Nat) : Work p (leaveAtStop p e) := by
  unfold leaveAtStop
  split
  · split
    · split
      · split
        · exact .refl p
        · refine ((modExtent_work _ _ _ ?_).trans (.onBuffer _ _)).trans (completeExtent_work _ _)
          exact fun _ _ h => ⟨h.1, fun _ hb => by cases hb⟩
      · exact completeExtent_work e p
    · exact .refl p
  · exact .refl p

theorem stopIfWrite_work (p : Part) (e : Nat) : Work p (stopIfWrite p e) := by
  unfold stopIfWrite
  split
  · split
    · exact stopOrder_work e _ p
    · exact .refl p
  · exact .refl p

theorem stopWrites_work (p : Part) : Work p (stopWrites p) :=
  (Work.foldl stopIfWrite_work _ p).trans (.foldl leaveAtStop_work _ _)

theorem arrayFails_work (p : Part) : Work p (arrayFails p) :=
  ((raiseCause_work _ p).trans (haltCause_work _ _)).trans (stopWrites_work _)

theorem makeAbsent_reach (h : .tags ∈ k) (slot : Nat) (p : Part) : Reach k p (makeAbsent slot p) := by
  unfold makeAbsent
  dsimp only
  split
  · rename_i present
    have changed := (Reach.absent (k := k) p slot present).step (raiseCause_work .memberDown _)
    have told := Reach.ite (c := (p.member slot).state = .target) (changed.step (haltCause_work .spareFault _)) changed
    exact (Reach.ite (told.step (arrayFails_work _)) told).trans (closeLane_reach h _ _)
  · exact .refl p

/-! ### What commands end with (Intake.lean) -/

theorem chainFault_work (a : Word) (p : Part) : Work p (chainFault a p) :=
  ((latch_work _ p).trans (raiseCause_work _ _)).trans (.onIntake _ _)

theorem dispatchOne_work (p : Part) : Work p (dispatchOne p) := by
  unfold dispatchOne
  split
  · refine .ite ((Work.onTable _ _ ?_).trans (.onIntake _ _)) (.refl p)
    exact BandLaw.set _ _ rfl fun _ _ ha hw => by cases ha; cases hw
  · exact .refl p

theorem dispatchAll_work (n : Nat) (p : Part) : Work p (dispatchAll n p) := by
  induction n generalizing p with
  | zero => exact .refl p
  | succ n ih => exact (dispatchOne_work p).trans (ih _)

theorem beginFetch_work (p : Part) : Work p (beginFetch p) := by
  unfold beginFetch
  split
  · exact .ite (.onIntake p _) (.refl p)
  · exact .refl p

theorem completeBarrier_work (p : Part) : Work p (completeBarrier p) := by
  unfold completeBarrier
  split
  · exact .ite (finishOrder_work ..) (.refl p)
  · exact .refl p

theorem syncStatus_work (p : Part) : Work p (syncStatus p) := .ite (.onStatus p _) (.refl p)
theorem drainCheck_work (p : Part) : Work p (drainCheck p) := .onEngine p _ (by intro; rfl)
theorem driveAttention_work (p : Part) : Work p (driveAttention p) := .onAlerts p _ (by intro; rfl) (by intro; rfl) (by intro; rfl)

theorem finish_work (p : Part) : Work p (finish p) :=
  (((((completeBarrier_work p).trans (dispatchAll_work _ _)).trans (beginFetch_work _)).trans (syncStatus_work _)).trans
    (drainCheck_work _)).trans (driveAttention_work _)

theorem startLog_work (p : Part) : Work p (startLog p) := by
  unfold startLog
  refine .ite (.ite (.ite (.refl p) ?_) ?_) (.refl p)
  · exact (Work.onFindings p _ (by intro; rfl) (by intro; rfl) (by intro; rfl) (by intro; rfl)).trans (raiseCause_work _ _)
  · exact .onFindings p _ (by intro; rfl) (by intro; rfl) (by intro; rfl) (by intro; rfl)

theorem grantReservation_work (p : Part) : Work p (grantReservation p) := by
  unfold grantReservation
  split
  · rename_i place rest _
    split
    · rename_i free
      have h : Work p ((p.onFindings fun f => { f with waiting := rest }).modContext place fun c =>
          { c with reserved := true }) :=
        .reserve ⟨rfl, rfl, rfl, rfl, rfl, rfl, rfl, rfl, rfl, rfl, rfl, rfl, rfl, rfl, rfl, rfl, id⟩ free
          (Nat.add_le_add_left (modAt_reserve _ p.sweep.window place) _)
      exact h.trans (contextReturns_work _ _)
    · exact .refl p
  · exact .refl p

theorem grantReservations_work (p : Part) : Work p (grantReservations p) :=
  (((grantReservation_work p).trans (grantReservation_work _)).trans (grantReservation_work _)).trans
    (grantReservation_work _)

theorem settleWork_work (p : Part) : Work p (settleWork p) :=
  (((takeJoins_work 8 p).trans (takeRefill_work _)).trans (grantReservations_work _)).trans (startLog_work _)

/-! ### The store and a sweep's start (Store.lean) -/

theorem beginSweep_reach (e w n : Nat) (p : Part) : Reach k p (beginSweep e w n p) := by
  have swept : Work (p.onRetry fun r => r.startSweep (p.isLatched .retryOverflow))
      ((p.onRetry fun r => r.startSweep (p.isLatched .retryOverflow)).onSweep fun s =>
        { s with haltSet := 0, settleCount := 0, window := List.replicate 4 none, watermark := w, next := w,
                 pass := .main, startWait := none }) :=
    .staging ⟨rfl, rfl, rfl, rfl, rfl, rfl, rfl, rfl, rfl, rfl, rfl, rfl, rfl, rfl, rfl, rfl, id⟩ (Nat.add_le_add_left (Nat.zero_le _) _)
  have reset := (((Reach.retryStart (k := k) p _).step swept).trans (.paceSweep _)).step
    (.onStore _ (fun c => { c with target := p.targetSlot }) fun _ => rfl)
  exact (Reach.ite (reset.step (enterPass_work _)) (reset.step (enterFinishing_work _))).step (finishOrder_work ..)

theorem failStart_work (e : Nat) (st : Status) (b : Option Word) (p : Part) : Work p (failStart e st b p) :=
  ((Work.onSweep p (fun s => { s with startWait := none }) fun _ => rfl).trans (enterIdle_work _)).trans
    (finishOrder_work ..)

theorem slotReadEnds_reach (e : Nat) (p : Part) : Reach k p (slotReadEnds e p) := by
  unfold slotReadEnds
  split
  · dsimp only
    refine .ite (.work (failStart_work ..)) (.ite (.work (failStart_work ..)) (.ite (.work (failStart_work ..)) ?_))
    exact beginSweep_reach ..
  · exact .work (failStart_work ..)

theorem startSlotRead_work (p : Part) : Work p (startSlotRead p) := .ite (.onStore p _ (by intro; rfl)) (.refl p)

theorem takeAgain_work (p : Part) : Work p (takeAgain p) := by
  unfold takeAgain
  refine .ite (.ite ?_ (.ite (.refl p) (beginStoreWrite_work p))) (.refl p)
  exact (Work.foldl (fun q (w : Waiter) => finishOrder_work w.entry _ _ _ q) _ p).trans (.onStore _ _ (by intro; rfl))

theorem satisfyOrders_work (w : StoreWrite) (fault : Bool) (p : Part) : Work p (satisfyOrders w fault p) := by
  refine (Work.foldl (fun q x => ?_) _ p).trans (.onStore _ _ (by intro; rfl))
  cases fault
  · exact finishOrder_work x.entry _ _ _ q
  · exact finishOrder_work x.entry _ _ _ q

theorem endSweepWait_work (wrote : Bool) (p : Part) : Work p (endSweepWait wrote p) := by
  have h : Work p (p.onStore fun c => { c with sweepWait := none }) := .onStore p _ (by intro; rfl)
  unfold endSweepWait
  dsimp only
  split
  · exact h.trans (enterDone_work _)
  · exact (h.trans (.onSweep _ _ (by intro; rfl))).trans (abandonCheck_work _)
  · exact h

theorem settleSweepWait_work (fault : Bool) (p : Part) : Work p (settleSweepWait fault p) := by
  unfold settleSweepWait
  split
  · exact endSweepWait_work _ p
  · exact .ite (.ite (endSweepWait_work _ p) (abandonCheck_work p)) (.refl p)
  · exact .refl p

theorem storeWriteEnds_work (w : StoreWrite) (fault : Bool) (p : Part) : Work p (storeWriteEnds w fault p) := by
  have ended : Work p (p.onStore fun c => { c with write := none }) := .onStore p _ (by intro; rfl)
  have marked := Work.ite (c := fault = true)
    ((ended.trans (latch_work .checkpointFault _)).trans (raiseCause_work .checkpointFault _))
    (ended.trans (.onStore _ (fun c => { c with last := some (w.generation, w.resume, w.code) }) fun _ => rfl))
  exact (((marked.trans (satisfyOrders_work w fault _)).trans (settleSweepWait_work fault _)).trans
    (takeAgain_work _)).trans (startSlotRead_work _)

/-! ### Registers (Registers.lean) -/

theorem unlatch_work (c : Condition) (p : Part) : Work p (unlatch c p) :=
  .onAlerts p _ (by intro; rfl) (by intro; rfl) (by intro; rfl)

theorem dropHaltCause_work (c : Condition) (p : Part) : Work p (dropHaltCause c p) := by
  unfold dropHaltCause
  split
  · exact .onSweep p _ fun _ => rfl
  · exact .refl p

theorem leaveIfClear_work (p : Part) : Work p (leaveIfClear p) := .ite (leaveHalted_work _) (.refl _)

theorem clearEffects_work (cs : List Condition) (p : Part) : Work p (clearEffects cs p) := by
  have chain : Work p (if cs.contains .chainFault then resumeChain p else p) :=
    .ite (.ite (.onIntake p _) (.refl p)) (.refl p)
  have dropped := chain.trans (Work.foldl (fun q c => dropHaltCause_work c q) cs _)
  have left := Work.ite (c := cs.any (fun c => c.haltCause.isSome) = true)
    (dropped.trans (leaveIfClear_work _)) dropped
  exact (Work.ite (left.trans (takeAgain_work _)) left).trans (settleWork_work _)

theorem setRefused_reach (h : .regs ∈ k) (p : Part) : Reach k p (setRefused p) := .regs h p _

theorem clearConditions_reach (h : .regs ∈ k) (cs : List Condition) (p : Part) : Reach k p (clearConditions cs p) := by
  have done : Work p (if cs.filter p.isLatched = [] then p else clearEffects (cs.filter p.isLatched)
      ((cs.filter p.isLatched).foldl (fun q c => unlatch c q) p)) :=
    .ite (.refl p) ((Work.foldl (fun q c => unlatch_work c q) _ p).trans (clearEffects_work _ _))
  exact .ite ((Reach.work done).trans (setRefused_reach h _)) (.work done)

theorem bindEngine_reach (h : .regs ∈ k) (j : .engine ∈ k) (p : Part) : Reach k p (bindEngine p) :=
  .ite (.ite (.engine j p _) (.regs h p _)) (setRefused_reach h p)

theorem takeAnchor_reach (h : .regs ∈ k) (j : .engine ∈ k) (l : .log ∈ k) (m : .alerts ∈ k) (a : Anchor) (p : Part) :
    Reach k p (takeAnchor a p) := by
  have logged := (Reach.log l p (fun f =>
      { f with area := some (a.logAddress, a.logCapacity), writeIndex := 0, sequence := 1, lastSequence := 0,
               episode := false }) fun _ => Nat.le_refl _).trans (.regs h _ fun r => { r with logTaken := 0 })
  have installed : Reach k p (((p.onFindings fun f =>
      { f with area := some (a.logAddress, a.logCapacity), writeIndex := 0, sequence := 1, lastSequence := 0,
               episode := false }).onRegs fun r => { r with logTaken := 0 }).onRetry fun r =>
      if r.extensionInUse || r.refilling then r else r.install a.retryAddress a.retryCapacity) := by
    refine logged.trans ?_
    by_cases use : (p.retry.extensionInUse || p.retry.refilling) = true
    · refine .work (.other
        ⟨rfl, rfl, rfl, rfl, rfl, rfl, rfl, rfl, rfl, rfl, rfl, rfl, rfl, rfl, ?_, rfl, id⟩ rfl rfl)
      simp only [Part.onRetry_retry, Part.onRegs_retry, Part.onFindings_retry, use, if_true]
    · simp only [Bool.or_eq_true, not_or, Bool.not_eq_true] at use
      have e : ∀ q : Part, q.retry = p.retry → (q.onRetry fun r =>
          if r.extensionInUse || r.refilling then r else r.install a.retryAddress a.retryCapacity) =
          q.onRetry fun r => r.install a.retryAddress a.retryCapacity := by
        intro q hq
        simp only [Part.onRetry, hq, use.1, use.2, Bool.or_self, Bool.false_eq_true, if_false]
      rw [e]
      · exact .retryInstall _ _ _ use.1 use.2
      · rfl
  exact ((installed.trans (.alerts m _ _)).step (.onIntake _ _)).trans (.engine j _ _)

theorem followFirst_work (a : Anchor) (p : Part) : Work p (followFirst a p) :=
  .ite (.onIntake p _) (.ite (.onIntake p _) ((Work.onIntake p _).trans (chainFault_work _ _)))

theorem endBind_reach (h : .regs ∈ k) (j : .engine ∈ k) (l : .log ∈ k) (m : .alerts ∈ k) (b : Option (List Byte))
    (p : Part) : Reach k p (endBind b p) := by
  unfold endBind
  split
  · refine .ite ?_ ((Reach.engine j p _).trans (.regs h _ _))
    exact (((takeAnchor_reach h j l m _ p).step (followFirst_work _ _)).step (.onStatus _ _)).step (settleWork_work _)
  · exact (Reach.engine j p _).trans (.regs h _ _)

theorem unbindEngine_reach (h : .regs ∈ k) (j : .engine ∈ k) (p : Part) : Reach k p (unbindEngine p) := by
  have stopped : Reach k p ((p.onEngine fun e => { e with state := .unbinding }).onIntake Intake.stop) :=
    (Reach.engine j p _).step (.onIntake _ _)
  exact .ite (.ite (stopped.step (enterPausing_work _)) stopped) (setRefused_reach h p)

theorem endUnbind_reach (j : .engine ∈ k) (p : Part) : Reach k p (endUnbind p) := .ite (.engine j p _) (.refl p)

theorem writeAnchor_reach (h : .regs ∈ k) (v : Word) (p : Part) : Reach k p (writeAnchor v p) :=
  .ite (.regs h p _) (setRefused_reach h p)

theorem writeLogTaken_reach (h : .regs ∈ k) (v : Word) (p : Part) : Reach k p (writeLogTaken v p) := by
  refine .ite ?_ (.regs h p _)
  refine Reach.step ?_ (startLog_work _)
  exact .ite (.regs h p _) ((Reach.regs h p _).step
    (.onFindings _ _ (by intro; rfl) (by intro; rfl) (by intro; rfl) (by intro; rfl)))

theorem writeAlert_reach (h : .alerts ∈ k) (v : Word) (p : Part) : Reach k p (writeAlert v p) := .alerts h p _

theorem writeControl_reach (h : .regs ∈ k) (j : .engine ∈ k) (r : .reset ∈ k) (v : Word) (taken : Nat) (p : Part) :
    Reach k p (writeControl v taken p) := by
  unfold writeControl
  split
  · exact bindEngine_reach h j p
  · exact unbindEngine_reach h j p
  · exact clearConditions_reach h _ p
  · exact .engineReset r p taken
  · exact setRefused_reach h p

theorem writeRegister_reach (h : .regs ∈ k) (j : .engine ∈ k) (m : .alerts ∈ k) (r : .reset ∈ k) (o w : Nat) (v : Word)
    (p : Part) : Reach k p (writeRegister o w v p) := by
  unfold writeRegister
  refine .ite (setRefused_reach h p) ?_
  split
  · exact writeAnchor_reach h v p
  · exact .work (.onIntake p _)
  · exact writeLogTaken_reach h v p
  · exact writeAlert_reach m v p
  · exact (Reach.work (spend_work p)).trans (writeControl_reach h j r ..)
  · exact setRefused_reach h p

/-! ### Orders (Orders.lean) -/

theorem holdOrder_work (e : Nat) (p : Part) : Work p (holdOrder e p) :=
  (setWork_work p e _).trans (.onGeometry _ _ (by intro; rfl) (by intro; rfl) (by intro; rfl))

theorem beginExtent_work (e : Nat) (r : OrderRecord) (p : Part) : Work p (beginExtent e r p) := by
  unfold beginExtent
  split
  · exact finishOrder_work ..
  · exact .ite (finishOrder_work ..) (.ite (finishOrder_work ..) (.ite (finishOrder_work ..)
      ((setWork_work p e _ fun _ hx => by cases hx; exact ⟨.nil, fun _ hb => by cases hb⟩).trans (askStripe_work ..))))

theorem beginMemberState_reach (h : .tags ∈ k) (j : .counters ∈ k) (e : Nat) (r : OrderRecord) (p : Part) : Reach k p (beginMemberState e r p) := by
  unfold beginMemberState
  split
  · exact .work (finishOrder_work ..)
  · refine .ite (.work (finishOrder_work ..)) ?_
    have done : Reach k p (if r.p1 = 1 then makeAbsent r.p0.toNat p else clearCounters r.p0.toNat p) :=
      .ite (makeAbsent_reach h _ p) (.cleared j p _)
    exact ((done.step (finishOrder_work ..)).step (advanceBands_work _ _)).step (settleWork_work _)

theorem beginStart_reach (e : Nat) (r : OrderRecord) (p : Part) : Reach k p (beginStart e r p) := by
  unfold beginStart
  split
  · exact .work (finishOrder_work ..)
  · refine .ite (.work (finishOrder_work ..)) (.ite (.work (finishOrder_work ..)) (.ite (.work (finishOrder_work ..))
      (.ite (.work ?_) (beginSweep_reach ..))))
    exact (((setWork_work p e _).trans (.onSweep _ _ (by intro; rfl))).trans (.onStore _ _ (by intro; rfl))).trans
      (startSlotRead_work _)

theorem beginLoad_work (e : Nat) (r : OrderRecord) (p : Part) : Work p (beginLoad e r p) :=
  .ite (finishOrder_work ..) (.ite (finishOrder_work ..)
    ((setWork_work p e _).trans (.onGeometry _ _ (by intro; rfl) (by intro; rfl) (by intro; rfl))))

theorem beginHeld_reach (h : .tags ∈ k) (j : .counters ∈ k) (p : Part) (e : Nat) : Reach k p (beginHeld p e) := by
  unfold beginHeld
  split
  · exact .ite (.work (beginExtent_work ..)) (.ite (beginMemberState_reach h j ..) (.ite (beginStart_reach ..) (.refl p)))
  · exact .refl p

theorem endLoad_reach (h : .tags ∈ k) (j : .counters ∈ k) (p : Part) : Reach k p (endLoad p) :=
  ((Reach.work (.onGeometry p (fun g => { g with load := none, held := [] }) (fun _ => rfl) (fun _ => rfl)
    fun _ => rfl)).step (leaveIfClear_work _)).trans (.foldl (beginHeld_reach h j) _ _)

theorem partitionFrames_work (n : Nat) (p : Part) : Work p (partitionFrames n p) := .onBuffer p _

theorem installProfile_reach (h : .profile ∈ k) (b : List Byte) (passed : profileFail b = none) (p : Part) :
    Reach k p (installProfile (profileOf b) p) := by
  have rest : Reach k p (if p.sweep.state = .halted ∨ p.sweep.state = .done then enterIdle p else p) :=
    .ite (.work (enterIdle_work p)) (.refl p)
  exact ((rest.trans (.install h _ b passed (fun u =>
    { u with profile := some (profileOf b), members := memberTable (profileOf b), failed := false,
             load := u.load.map fun l => { l with fetching := false, unsettled := (profileOf b).lanes } })
    (fun _ => rfl) (fun _ => rfl) fun _ => rfl)).trans (.paceProfile _ b passed)).step (partitionFrames_work _ _)

theorem endProfileFetch_reach (h : .tags ∈ k) (j : .counters ∈ k) (f : .profile ∈ k) (b : Option (List Byte))
    (l : Load) (p : Part) : Reach k p (endProfileFetch b l p) := by
  unfold endProfileFetch
  split
  · exact (Reach.work (finishOrder_work ..)).trans (endLoad_reach h j _)
  · split
    · exact (Reach.work (finishOrder_work ..)).trans (endLoad_reach h j _)
    · exact installProfile_reach f _ ‹_› p

theorem settleLoadLane_reach (h : .tags ∈ k) (j : .counters ∈ k) (lane : Nat) (p : Part) : Reach k p (settleLoadLane lane p) := by
  unfold settleLoadLane
  split
  · rename_i l _
    have left : Reach k p (p.onGeometry fun g =>
        { g with load := some { l with unsettled := l.unsettled.filter (· ≠ lane) } }) :=
      .work (.onGeometry p _ (by intro; rfl) (by intro; rfl) (by intro; rfl))
    exact .ite ((left.step (finishOrder_work ..)).trans (endLoad_reach h j _)) left
  · exact .refl p

theorem takePause_work (e : Nat) (p : Part) : Work p (takePause e p) :=
  .ite (((setWork_work p e _).trans (.onSweep _ _ (by intro; rfl))).trans (enterPausing_work _))
    (.ite (finishOrder_work ..) (finishOrder_work ..))

theorem takeResume_work (e : Nat) (p : Part) : Work p (takeResume e p) :=
  .ite (((((finishOrder_work e _ _ _ p).trans (enterPass_work _)).trans (contextsReturn_work _)).trans
    (passEnd_work _)).trans (settleWork_work _)) (.ite (finishOrder_work ..) (finishOrder_work ..))

theorem takeAbandon_work (e : Nat) (p : Part) : Work p (takeAbandon e p) := by
  unfold takeAbandon
  refine .ite (finishOrder_work ..) (.ite ?_ (finishOrder_work ..))
  exact ((((((setWork_work p e _).trans (.onSweep _ _ (by intro; rfl))).trans (.paceStop _)).trans
    (requestSweepCheckpoint_work _)).trans (.foldl abandonDiscards_work _ _)).trans (abandonCheck_work _)).trans
    (settleWork_work _)

theorem takeSetPace_reach (e : Nat) (r : OrderRecord) (p : Part) : Reach k p (takeSetPace e r p) := by
  unfold takeSetPace
  refine .ite (.work (finishOrder_work ..)) (.ite (.work (finishOrder_work ..)) ?_)
  dsimp only
  split
  · exact .work (finishOrder_work ..)
  · exact (Reach.paceSet p _ ‹_› _).step (finishOrder_work ..)

theorem takeCheckpointNow_work (e : Nat) (p : Part) : Work p (takeCheckpointNow e p) :=
  .ite (finishOrder_work ..) (.ite (finishOrder_work ..) (.ite ((Work.onStore p _ (by intro; rfl)).trans (finishOrder_work ..))
    ((setWork_work p e _).trans (requestOrderCheckpoint_work _ _))))

theorem takeSetRetryArea_reach (e : Nat) (r : OrderRecord) (p : Part) : Reach k p (takeSetRetryArea e r p) := by
  unfold takeSetRetryArea
  refine .ite (.work (finishOrder_work ..)) ?_
  split
  · exact .work (finishOrder_work ..)
  · rename_i h
    simp only [Bool.or_eq_true, not_or, Bool.not_eq_true] at h
    exact (Reach.retryInstall p _ _ h.1 h.2).step (finishOrder_work ..)

theorem takeReport_reach (h : .slots ∈ k) (e taken : Nat) (r : OrderRecord) (p : Part) :
    Reach k p (takeReport e taken r p) :=
  .ite (.work (finishOrder_work ..)) (((Reach.slots h p _).step (setWriting_work _ _ _ _)).step (spend_work _))

theorem takeOrder_reach (e : Nat) (owns : Nat → Bool) (f : OrderRecord → Part → Part)
    (h : ∀ r p, Reach k p (f r p)) (p : Part) : Reach k p (takeOrder e owns f p) := by
  unfold takeOrder
  split
  · exact .ite (((Reach.work (.onTable p _ id)).trans (h _ _)).step (finish_work _)) (.refl p)
  · exact .refl p

/-! ### Commands -/

/-- What an order command's arm does. -/
theorem heldOr_reach {c : Bool} {e : Nat} {p q : Part} (h : Reach k p q) : Reach k p (if c then holdOrder e p else q) :=
  .ite (.work (holdOrder_work e p)) h

theorem afterLane_work (lane : Nat) (ups : List Nat) (p : Part) : Work p (afterLane lane ups p) :=
  (((reclaimLane_work lane p).trans (advanceBands_work _ _)).trans (settleWork_work _)).trans (finish_work _)

theorem afterBand_work (ups : List Nat) (p : Part) : Work p (afterBand ups p) :=
  ((advanceBands_work ups p).trans (settleWork_work _)).trans (finish_work _)

theorem checkDelivered_reach (h : .counters ∈ k) (q : LaneRequest) (i : Nat) (p : Part) : Reach k p (checkDelivered q i p) := by
  unfold checkDelivered
  refine .ite (.work (frameError_work ..)) ?_
  exact (Reach.ite (.trailer h p _) (.refl p)).step (recordResult_work ..)

theorem deliver_reach (h : .counters ∈ k) (q : LaneRequest) (ss : List Sector) (ups : List Nat) (p : Part) :
    Reach k p (deliver q ss ups p) :=
  (((Reach.work (Work.foldl (fun x _ => loadFrame_work _ _ _ x) _ p)).step (strikeFrames_work ups _))).trans
    (.foldl (fun x i => checkDelivered_reach h q i x) _ _)

theorem failRequest_reach (h : .tags ∈ k) (j : .counters ∈ k) (q : LaneRequest) (x : ErasureKind) (p : Part) :
    Reach k p (failRequest q x p) :=
  .ite ((makeAbsent_reach h _ p).step (completeErased_work ..))
    (.ite ((Reach.medium j p _).step (completeErased_work ..)) (.work (completeErased_work ..)))

theorem retryOrFail_reach (h : .tags ∈ k) (j : .counters ∈ k) (q : LaneRequest) (x : ErasureKind) (p : Part) :
    Reach k p (retryOrFail q x p) := by
  unfold retryOrFail
  split
  · exact .ite (.work (retryRequest_work q p)) (failRequest_reach h j q x p)
  · exact .refl p

theorem answer_reach (j : .tags ∈ k) (lane t : Nat) (ups : List Nat) (f : LaneRequest → Part → Part)
    (h : ∀ q p, Reach k p (f q p)) (p : Part) : Reach k p (answer lane t ups f p) := by
  unfold answer
  split
  · split
    · exact ((Reach.free j p lane t).trans (h _ _)).step (afterLane_work _ _ _)
    · exact (Reach.free j p lane t).step (afterLane_work _ _ _)
    · exact .refl p
  · exact .refl p

theorem takeGood_reach (h : .counters ∈ k) (q : LaneRequest) (ss : List Sector) (ups : List Nat) (p : Part) :
    Reach k p (takeGood q ss ups p) :=
  .ite ((Reach.consecutive h p _).step (completeWrite_work ..)) ((Reach.consecutive h p _).trans (deliver_reach h ..))

theorem takeNotReady_reach (h : .tags ∈ k) (j : .counters ∈ k) (q : LaneRequest) (ups : List Nat) (p : Part) :
    Reach k p (takeNotReady q ups p) :=
  (Reach.work (strikeFrames_work ups p)).trans (retryOrFail_reach h j ..)

theorem takeMedium_reach (h : .tags ∈ k) (j : .counters ∈ k) (q : LaneRequest) (i : Nat) (ss : List Sector) (ups : List Nat) (p : Part) :
    Reach k p (takeMedium q i ss ups p) := by
  have counted := Reach.medium j p q.slot
  unfold takeMedium
  refine .ite (counted.trans (failRequest_reach h j ..)) ?_
  have delivered := (counted.trans (deliver_reach j q ss ups _)).step
    (recordResult_work q.owner (q.row + i) q.slot (.erased .medium) _)
  exact .ite (delivered.step (.lane _ _ _ fun l => joinHead_tags l _)) delivered

theorem checkAbsence_reach (h : .tags ∈ k) (slot : Nat) (g : Profile) (p : Part) : Reach k p (checkAbsence slot g p) :=
  .ite (makeAbsent_reach h slot p) (.refl p)

theorem failIssue_reach (j : .tags ∈ k) (q : LaneRequest) (bad : List Nat) (p : Part) : Reach k p (failIssue q bad p) := by
  have h := frameError_work q.owner q.row bad p
  unfold failIssue
  dsimp only
  split
  · exact .work h
  · exact (Reach.work h).trans (makeAbsent_reach j _ _)

theorem limitLoad_reach (h : .tags ∈ k) (j : .counters ∈ k) (lane : Nat) (p : Part) : Reach k p (limitLoad lane p) := by
  unfold limitLoad
  split
  · refine (Reach.ite (.refl p) ?_).trans (settleLoadLane_reach h j _ _)
    exact (makeAbsent_reach h _ p).step (.onGeometry _ _ (by intro; rfl) (by intro; rfl) (by intro; rfl))
  · exact .refl p

theorem take_tags (l : Lane) (c : LaneClass) : (l.take c).tags = l.tags := by
  unfold Lane.take; cases c <;> rfl

/-- Striking frames leaves the lanes as they are. -/
theorem strikeFrames_lanes (fs : List Nat) (p : Part) : (strikeFrames fs p).lanes = p.lanes := by
  unfold strikeFrames
  induction fs generalizing p with
  | nil => rfl
  | cons a l ih => exact ih _

/-- Striking frames leaves the geometry as it is. -/
theorem strikeFrames_geometry (fs : List Nat) (p : Part) : (strikeFrames fs p).geometry = p.geometry := by
  unfold strikeFrames
  induction fs generalizing p with
  | nil => rfl
  | cons a l ih => exact ih _

/-- Changing a lane without its tags leaves every lane's tags. -/
theorem modLane_tags (p : Part) (i j : Nat) (f : Lane → Lane) (h : ∀ l, (f l).tags = l.tags) :
    ((p.modLane i f).lane j).tags = (p.lane j).tags := by
  have key : ∀ (ls : List Lane) (i j : Nat), ((modAt f ls i).getD j Lane.initial).tags = (ls.getD j Lane.initial).tags := by
    intro ls
    induction ls with
    | nil => intro i j; cases i <;> rfl
    | cons a l ih =>
      intro i j
      cases i with
      | zero => cases j <;> simp [modAt, h]
      | succ i =>
        cases j with
        | zero => simp [modAt]
        | succ j => simpa [modAt] using ih i j
  exact key p.lanes i j

theorem issueRequest_reach (h : .tags ∈ k) (lane : Nat) (q : LaneRequest) (ups : List Nat) (g : Profile) (p : Part)
    (profile : p.geometry.profile = some g) (room : (p.lane lane).outstanding < g.depth) :
    Reach k p (issueRequest lane q ups p) := by
  have hs := Reach.work (k := k) (strikeFrames_work ups p)
  unfold issueRequest
  refine .ite (hs.trans (failIssue_reach h ..)) ?_
  split
  · refine hs.trans (.issue h _ _ _ _ _ g ?_ ?_)
    · rw [strikeFrames_geometry]; exact profile
    · unfold Part.lane at room ⊢
      rw [strikeFrames_lanes]; exact room
  · exact hs

theorem issueOn_reach (h : .tags ∈ k) (lane : Nat) (ups : List Nat) (g : Profile) (p : Part) (profile : p.geometry.profile = some g) :
    Reach k p (issueOn lane ups g p) := by
  unfold issueOn
  dsimp only
  split
  · rename_i can
    split
    · rename_i c _
      split
      · rename_i q _
        have room : ((p.modLane lane fun x => x.take c).lane lane).outstanding < g.depth := by
          simp only [Lane.canIssue, Bool.and_eq_true, decide_eq_true_eq] at can
          unfold Lane.outstanding at can ⊢
          rw [modLane_tags p lane lane (fun x => x.take c) fun l => take_tags l c]
          exact can.1.2
        have taken : Reach k p (p.modLane lane fun x => x.take c) := .work (.lane p lane _ fun l => take_tags l c)
        exact (taken.trans (issueRequest_reach h lane q ups g _ profile room)).step (afterLane_work _ _ _)
      · exact .refl p
    · exact .refl p
  · exact .refl p

theorem beginBand_work (e : Nat) (p : Part) : Work p (beginBand e p) := by
  unfold beginBand
  split
  · exact .ite (setBandDma_work e _ p) (beginReadBand_work e _ p)
  · exact .refl p

theorem grantHead_work (p : Part) : Work p (grantHead p) := by
  unfold grantHead
  split
  · split
    · split
      · exact ((((grantFrames_work _ _ p).trans (.onBuffer _ _)).trans (modBand_work _ _ _)).trans
          (beginBand_work _ _)).trans (afterBand_work _ _)
      · exact .refl p
    · exact .refl p
  · exact .refl p

theorem placeOutputs_work (v : BandView) (row : Nat) (part : FramePart) (bs : List (Nat × Block)) (p : Part) :
    Work p (placeOutputs v row part bs p) := by
  refine .foldl (fun x s => ?_) bs p
  dsimp only
  split
  · exact placeFrame_work _ _ _ x
  · exact .refl x

theorem endReadJob_work (e row : Nat) (ups : List Nat) (p : Part) : Work p (endReadJob e row ups p) := by
  unfold endReadJob
  split
  · have hs := strikeFrames_work ups p
    dsimp only
    refine .ite (((hs.trans (spoilOutputs_work ..)).trans (frameError_work ..)).trans (afterBand_work _ _)) ?_
    exact (((hs.trans (placeOutputs_work ..)).trans (modExtent_work _ _ _)).trans (modRow_work _ _ _ _)).trans
      (afterBand_work _ _)
  · exact .refl p

theorem countUnwritten_work (e row : Nat) (v : BandView) (p : Part) : Work p (countUnwritten e row v p) :=
  (modExtent_work p e _).trans (modRow_work _ e row _)

theorem fillGathered_work (v : BandView) (ms : List BlockMove) (bs : List Block) (p : Part) :
    Work p (fillGathered v ms bs p) := by
  refine .foldl (fun x mb => ?_) _ p
  split
  · exact loadFrame_work _ _ _ x
  · exact .refl x

theorem startRow_work (e : Nat) (v : BandView) (p : Part) (w : RowWork) : Work p (startRow e v p w) := by
  unfold startRow
  dsimp only
  split
  · exact (modRow_work p e _ _).trans (writeRow_work ..)
  · exact (modRow_work p e _ _).trans (handJob_work ..)
  · exact modRow_work p e _ _

theorem startRows_work (e : Nat) (v : BandView) (p : Part) : Work p (startRows e v p) :=
  (Work.foldl (startRow_work e v) _ p).trans (handRequests_work _ _)

theorem dropRows_work (e : Nat) (p : Part) : Work p (dropRows e p) := modBand_work p e _ fun _ h => h.map _ fun _ => rfl

theorem endDelivery_work (e : Nat) (v : BandView) (ms : List BlockMove) (r : DeliveryEnd) (p : Part) :
    Work p (endDelivery e v ms r p) := by
  unfold endDelivery
  dsimp only
  refine Work.trans ?_ (modBand_work _ e _ fun _ h => h.map _ fun w => by unfold closeRow; split <;> rfl)
  refine Work.trans ?_ (setBandDma_work e _ _)
  cases r with
  | good =>
    dsimp only
    exact .ite (.refl p) ((markUnfit_work _ p).trans (stopOrder_work ..))
  | fault n =>
    dsimp only
    exact (Work.ite (.refl p) ((markUnfit_work _ p).trans (stopOrder_work ..))).trans (stopOrder_work ..)

theorem takeRecord_work (r : OrderRecord) (link : Word) (p : Part) : Work p (takeRecord r link p) := by
  have h : Work p (p.onIntake fun i => { i with fetch := .none, holding := i.holding ++ [r] }) := .onIntake p _
  exact .ite (h.trans (.onIntake _ _)) (.ite (h.trans (.onIntake _ _)) (h.trans (chainFault_work _ _)))

theorem endFetch_work (r : FetchEnd) (p : Part) : Work p (endFetch r p) := by
  unfold endFetch
  split
  · exact (chainFault_work _ p).trans (.onIntake _ _)
  · exact takeRecord_work _ _ p
  · exact .onIntake p _

theorem endReread_work (b : Option (List Byte)) (p : Part) : Work p (endReread b p) := by
  have h : Work p (p.onIntake fun i => { i with reread := .none }) := .onIntake p _
  unfold endReread
  dsimp only
  split
  · exact h.trans (chainFault_work _ _)
  · exact .ite (h.trans (.onIntake _ _)) (.ite (h.trans (.onIntake _ _)) (h.trans (chainFault_work _ _)))
  · exact h.trans (.onIntake _ _)
  · exact .refl p

theorem endResume_work (b : Option (List Byte)) (p : Part) : Work p (endResume b p) := by
  have h : Work p (p.onIntake fun i => { i with resumeRead := .none }) := .onIntake p _
  unfold endResume
  dsimp only
  split
  · exact h.trans (chainFault_work _ _)
  · exact .ite (h.trans (.onIntake _ _)) (h.trans (chainFault_work _ _))
  · exact h

theorem wordFault_work (p : Part) : Work p (wordFault p) := (chainFault_work _ p).trans (spend_work _)

theorem endDetail_work (e : Nat) (fault : Bool) (p : Part) : Work p (endDetail e fault p) := by
  unfold endDetail
  split
  · exact .ite ((setWriting_work p e _ _).trans (wordFault_work _)) (setWriting_work p e _ _)
  · exact .refl p

theorem freeEntry_work (e : Nat) (p : Part) : Work p (freeEntry e p) := 
  (Work.onTable p _ (BandLaw.set e none rfl fun _ _ ha => by cases ha)).trans (.onIntake _ _)

theorem endCompletion_work (e : Nat) (fault : Bool) (p : Part) : Work p (endCompletion e fault p) := by
  unfold endCompletion
  split
  · split
    · exact .ite ((freeEntry_work e p).trans (wordFault_work _))
        (.ite ((freeEntry_work e p).trans (raiseCause_work _ _)) (freeEntry_work e p))
    · exact .refl p
  · exact .refl p

theorem endReport_work (e : Nat) (fault : Bool) (p : Part) : Work p (endReport e fault p) := by
  unfold endReport
  split
  · exact .ite (finishOrder_work ..) (finishOrder_work ..)
  · exact .refl p

/-- A DMA on the retry extension ends without an effect on the list. -/
theorem retryIdle_work (p : Part) : Work p (p.onRetry fun r => { r with busy := .idle }) :=
  .retryRest p _ (fun _ => rfl) (fun _ => rfl) (fun _ => rfl) fun _ => .inr rfl

/-- A join's write ends without an effect on the list. -/
theorem retryWritten_work (p : Part) : Work p (p.onRetry fun r => { r with busy := .idle, write := none }) :=
  .retryRest p _ (fun _ => rfl) (fun _ => rfl) (fun _ => rfl) fun _ => .inr rfl

theorem endJoin_reach (fault : Bool) (p : Part) : Reach k p (endJoin fault p) := by
  unfold endJoin
  split
  · exact .work (retryWritten_work p)
  · rename_i j h
    refine .ite (.work ((retryWritten_work p).trans (refuseJoin_work ..))) ?_
    have accepted := Reach.retryAccept (k := k) p j h
    exact (Reach.ite accepted (accepted.step (raiseCause_work _ _))).step (settleRest_work _ _)
  · exact .refl p

theorem endRefill_reach (b : Option (List Byte)) (p : Part) : Reach k p (endRefill b p) := by
  unfold endRefill
  split
  · exact .work (retryIdle_work p)
  · rename_i h
    split
    · exact .retryRefilled p _ h
    · exact .work ((retryIdle_work p).trans (retryOverflow_work _ _))
  · exact .refl p

theorem logFault_work (p : Part) : Work p (logFault p) :=
  ((Work.onFindings p (fun f => { f with writer := .idle, write := none }) (fun _ => rfl) (fun _ => rfl) (fun _ => rfl) fun _ =>
    rfl).trans (latch_work _ _)).trans
    (raiseCause_work _ _)

theorem written_reach (h : .log ∈ k) (p : Part) : Reach k p (p.onFindings Findings.written) :=
  .log h p _ fun x => by simp [Findings.written]

theorem endSlotRead_reach (p : Part) : Reach k p (endSlotRead p) := by
  unfold endSlotRead
  split
  · exact (Reach.work (.onStore p _ (by intro; rfl))).trans (slotReadEnds_reach _ _)
  · exact .work (.onStore p _ (by intro; rfl))

/-- A context in an empty place adds at most one reservation. -/
theorem set_reserve (l : List (Option Context)) (i : Nat) (c : Option Context) :
    ((l.set i c).filter holdsReservation).length ≤ (l.filter holdsReservation).length + 1 := by
  induction l generalizing i with
  | nil => simp
  | cons a l ih =>
    cases i with
    | zero =>
      simp only [List.set_cons_zero, List.filter_cons]
      split <;> split <;> (try simp only [List.length_cons]) <;> omega
    | succ i =>
      have := ih i
      simp only [List.set_cons_succ, List.filter_cons]
      split <;> simp_all

theorem placeContext_work (place : Nat) (c : Context) (p : Part) (free : p.stagingFree) : Work p (placeContext place c p) := by
  have placed : Work p (p.onSweep fun s => { s with window := s.window.set place (some c) }) :=
    .reserve ⟨rfl, rfl, rfl, rfl, rfl, rfl, rfl, rfl, rfl, rfl, rfl, rfl, rfl, rfl, rfl, rfl, id⟩ free
      (Nat.add_le_add_left (set_reserve p.sweep.window place (some c)) _)
  exact placed.trans (requestLock_work _ _ _ _)

theorem launchContext_reach (p : Part) : Reach k p (launchContext p) := by
  unfold launchContext
  split
  · split
    · rename_i may
      have free : p.stagingFree = true := by
        unfold Part.mayLaunch at may
        split at may
        · simp only [Bool.and_eq_true] at may; exact may.1.2
        · simp at may
      split
      · split
        · exact .work (((Work.onSweep p (fun s => { s with next := s.next + 1 }) fun _ => rfl).trans
            (placeContext_work _ _ _ free)).trans (finish_work _))
        · exact .refl p
      · split
        · rename_i h
          exact ((Reach.retryTaken p _ _ _ h).step (placeContext_work _ _ _ free)).step (finish_work _)
        · exact .refl p
    · exact .refl p
  · exact .refl p

theorem startSweepBand_reach (place count : Nat) (g : Profile) (c : Context) (p : Part) :
    Reach k p (startSweepBand place count g c p) :=
  ((((Reach.work (grantFrames_work _ _ p)).trans (.paceTake _ count))).step
    (.modContext _ place _ (by intro _ h; exact h))).step (handRequests_work _ _)

theorem launchBand_reach (place : Nat) (p : Part) : Reach k p (launchBand place p) := by
  unfold launchBand
  split
  · dsimp only
    exact .ite ((((startSweepBand_reach ..).step (advanceBands_work _ _)).step (settleWork_work _)).step (finish_work _))
      (.refl p)
  · exact .refl p

theorem pauseSweep_work (p : Part) : Work p (pauseSweep p) :=
  (((setSweepState_work .paused p).trans (contextsGiveUp_work _)).trans (requestCheckpoint_work _)).trans
    (completePauses_work _)

/-- The shape of a command's effect: it answers a next state, with the queue as it was. -/
theorem reach_of_becomes {s t : State} {q : Part} (h : becomes s q = .next t) (r : Reach k s.part q) :
    Reach k s.part t.part := by
  cases h
  exact r

/-- Every command's effect is a `Reach`. -/
theorem exec_reach (c : Instr) (s t : State) (h : exec c s = .next t) : Reach (touches c) s.part t.part := by
  have fin : ∀ {q : Part}, Work s.part q → Reach (touches c) s.part (finish q) := fun w => .work (w.trans (finish_work _))
  have settled : ∀ {q : Part}, Reach (touches c) s.part q → Reach (touches c) s.part (finish (settleWork q)) :=
    fun w => (w.step (settleWork_work _)).step (finish_work _)
  cases c with
  | readExtent e => exact reach_of_becomes h (takeOrder_reach _ _ _ (fun r p => heldOr_reach (.work (beginExtent_work ..))) _)
  | writeExtent e => exact reach_of_becomes h (takeOrder_reach _ _ _ (fun r p => heldOr_reach (.work (beginExtent_work ..))) _)
  | loadProfile e => exact reach_of_becomes h (takeOrder_reach _ _ _ (fun r p => .work (beginLoad_work ..)) _)
  | memberState e => exact reach_of_becomes h (takeOrder_reach _ _ _ (fun r p => heldOr_reach (beginMemberState_reach (List.mem_of_elem_eq_true rfl) (List.mem_of_elem_eq_true rfl) ..)) _)
  | startSweep e => exact reach_of_becomes h (takeOrder_reach _ _ _ (fun r p => heldOr_reach (beginStart_reach ..)) _)
  | pauseSweep e => exact reach_of_becomes h (takeOrder_reach _ _ _ (fun r p => .work (takePause_work ..)) _)
  | resumeSweep e => exact reach_of_becomes h (takeOrder_reach _ _ _ (fun r p => .work (takeResume_work ..)) _)
  | abandonSweep e => exact reach_of_becomes h (takeOrder_reach _ _ _ (fun r p => .work (takeAbandon_work ..)) _)
  | setPace e => exact reach_of_becomes h (takeOrder_reach _ _ _ (fun r p => takeSetPace_reach ..) _)
  | checkpointNow e => exact reach_of_becomes h (takeOrder_reach _ _ _ (fun r p => .work (takeCheckpointNow_work ..)) _)
  | setRetryArea e => exact reach_of_becomes h (takeOrder_reach _ _ _ (fun r p => takeSetRetryArea_reach ..) _)
  | report e n => exact reach_of_becomes h (takeOrder_reach _ _ _ (fun r p => takeReport_reach (List.mem_of_elem_eq_true rfl) ..) _)
  | barrier e => exact reach_of_becomes h (takeOrder_reach _ _ _ (fun r p => .work (setWork_work ..)) _)
  | unknownOrderKind e => exact reach_of_becomes h (takeOrder_reach _ _ _ (fun r p => .work (finishOrder_work ..)) _)
  | anchorWrite v => exact reach_of_becomes h ((writeAnchor_reach (List.mem_of_elem_eq_true rfl) ..).step (finish_work _))
  | nudge v => exact reach_of_becomes h (fin (.onIntake _ _))
  | logTakenWrite v => exact reach_of_becomes h ((writeLogTaken_reach (List.mem_of_elem_eq_true rfl) ..).step (finish_work _))
  | alertRead a b => exact reach_of_becomes h ((((Reach.regs (List.mem_of_elem_eq_true rfl) _ _).step
      (.onAlerts _ _ (by intro; rfl) (by intro; rfl) (by intro; rfl))).step (spend_work _)).step (finish_work _))
  | alertWrite v => exact reach_of_becomes h ((writeAlert_reach (List.mem_of_elem_eq_true rfl) ..).step (finish_work _))
  | controlRead a b => exact reach_of_becomes h (((Reach.regs (List.mem_of_elem_eq_true rfl) _ _).step (spend_work _)).step (finish_work _))
  | bind => exact reach_of_becomes h ((bindEngine_reach (List.mem_of_elem_eq_true rfl) (List.mem_of_elem_eq_true rfl) _).step (finish_work _))
  | unbind => exact reach_of_becomes h ((unbindEngine_reach (List.mem_of_elem_eq_true rfl) (List.mem_of_elem_eq_true rfl) _).step (finish_work _))
  | clearChainFault => exact reach_of_becomes h ((clearConditions_reach (List.mem_of_elem_eq_true rfl) ..).step (finish_work _))
  | clearLogFault => exact reach_of_becomes h ((clearConditions_reach (List.mem_of_elem_eq_true rfl) ..).step (finish_work _))
  | clearBufferParity => exact reach_of_becomes h ((clearConditions_reach (List.mem_of_elem_eq_true rfl) ..).step (finish_work _))
  | clearRetryOverflow => exact reach_of_becomes h ((clearConditions_reach (List.mem_of_elem_eq_true rfl) ..).step (finish_work _))
  | clearSpareFault => exact reach_of_becomes h ((clearConditions_reach (List.mem_of_elem_eq_true rfl) ..).step (finish_work _))
  | clearCheckpointFault => exact reach_of_becomes h ((clearConditions_reach (List.mem_of_elem_eq_true rfl) ..).step (finish_work _))
  | engineReset n => exact reach_of_becomes h (.engineReset (List.mem_of_elem_eq_true rfl) ..)
  | powerOnReset n => exact reach_of_becomes h (.reset (List.mem_of_elem_eq_true rfl) ..)
  | hostLinkReset n => exact reach_of_becomes h (.reset (List.mem_of_elem_eq_true rfl) ..)
  | registerWrite o w v => exact reach_of_becomes h ((writeRegister_reach (List.mem_of_elem_eq_true rfl) (List.mem_of_elem_eq_true rfl) (List.mem_of_elem_eq_true rfl) (List.mem_of_elem_eq_true rfl) ..).step (finish_work _))
  | anchorRead b => exact reach_of_becomes h (.ite ((endBind_reach (List.mem_of_elem_eq_true rfl) (List.mem_of_elem_eq_true rfl) (List.mem_of_elem_eq_true rfl) (List.mem_of_elem_eq_true rfl) ..).step (finish_work _)) (.refl _))
  | unbindDrainEnd => exact reach_of_becomes h ((endUnbind_reach (List.mem_of_elem_eq_true rfl) _).step (finish_work _))
  | recordFetch r => exact reach_of_becomes h (fin (endFetch_work ..))
  | linkReread b => exact reach_of_becomes h (fin (endReread_work ..))
  | chainResumeRead b => exact reach_of_becomes h (fin (endResume_work ..))
  | detailWriteEnd e f => exact reach_of_becomes h (fin (endDetail_work ..))
  | completionWordWriteEnd e f => exact reach_of_becomes h (fin (endCompletion_work ..))
  | reportWriteEnd e f => exact reach_of_becomes h (fin (endReport_work ..))
  | statusWordWriteEnd n f => exact reach_of_becomes h (fin (.onStatus _ _))
  | profileFetch b =>
    refine reach_of_becomes h ?_
    split
    · exact .ite (settled (endProfileFetch_reach (List.mem_of_elem_eq_true rfl) (List.mem_of_elem_eq_true rfl) (List.mem_of_elem_eq_true rfl) ..)) (.refl _)
    · exact .refl _
  | loadFlushLimit l => exact reach_of_becomes h (.ite ((limitLoad_reach (List.mem_of_elem_eq_true rfl) (List.mem_of_elem_eq_true rfl) ..).step (afterLane_work ..)) (.refl _))
  | requestIssue l u =>
    refine reach_of_becomes h ?_
    split
    · exact issueOn_reach (List.mem_of_elem_eq_true rfl) _ _ _ _ ‹_›
    · exact .refl _
  | good l t ss u =>
    exact reach_of_becomes h (answer_reach (List.mem_of_elem_eq_true rfl) _ _ _ _ (fun q p => .ite (takeNotReady_reach (List.mem_of_elem_eq_true rfl) (List.mem_of_elem_eq_true rfl) ..) (takeGood_reach (List.mem_of_elem_eq_true rfl) ..)) _)
  | medium l t i ss u =>
    exact reach_of_becomes h (answer_reach (List.mem_of_elem_eq_true rfl) _ _ _ _ (fun q p => .ite (takeNotReady_reach (List.mem_of_elem_eq_true rfl) (List.mem_of_elem_eq_true rfl) ..) (takeMedium_reach (List.mem_of_elem_eq_true rfl) (List.mem_of_elem_eq_true rfl) ..)) _)
  | notReady l t u => exact reach_of_becomes h (answer_reach (List.mem_of_elem_eq_true rfl) _ _ _ _ (fun q p => takeNotReady_reach (List.mem_of_elem_eq_true rfl) (List.mem_of_elem_eq_true rfl) ..) _)
  | flushed l =>
    refine reach_of_becomes h (.ite (.refl _) ?_)
    have f := Reach.flushed (k := touches (.flushed l)) (List.mem_of_elem_eq_true rfl) s.part l
    exact .ite ((f.trans (settleLoadLane_reach (List.mem_of_elem_eq_true rfl) (List.mem_of_elem_eq_true rfl) ..)).step (afterLane_work ..)) (f.step (afterLane_work ..))
  | requestTimerExpiry l t u =>
    refine reach_of_becomes h ?_
    split
    · rename_i q sent g hq hg
      have struck := (Reach.quarantine (k := touches (.requestTimerExpiry l t u)) (List.mem_of_elem_eq_true rfl) s.part l t).step (strikeFrames_work u _)
      have counted := struck.trans (.timeout (List.mem_of_elem_eq_true rfl) _ q.slot g (by rw [strikeFrames_geometry]; exact hg))
      exact ((counted.trans (retryOrFail_reach (List.mem_of_elem_eq_true rfl) (List.mem_of_elem_eq_true rfl) ..)).trans (checkAbsence_reach (List.mem_of_elem_eq_true rfl) ..)).step (afterLane_work ..)
    · exact .refl _
  | reclaimFlushLimit l =>
    refine reach_of_becomes h (.ite ?_ (.refl _))
    split
    · exact (makeAbsent_reach (List.mem_of_elem_eq_true rfl) ..).step (afterLane_work ..)
    · exact .refl _
  | orderBandGrant => exact reach_of_becomes h (.work (grantHead_work _))
  | reconstructionJobEnd o r u =>
    refine reach_of_becomes h ?_
    cases o with
    | sweepBand place => exact .ite ((Reach.work (endSweepJob_work ..)).step (afterBand_work _ _)) (.refl _)
    | orderBand e => exact .work (endReadJob_work ..)
  | deltaJobEnd e r u =>
    refine reach_of_becomes h ?_
    split
    · refine .ite (.work ((moveRows_work ..).trans (afterBand_work _ _))) ?_
      have hs := strikeFrames_work u s.part
      exact .ite (.work (((hs.trans (spoilOutputs_work ..)).trans (frameError_work ..)).trans (afterBand_work _ _)))
        (.work (((hs.trans (placeOutputs_work ..)).trans (writeRow_work ..)).trans (afterBand_work _ _)))
    · exact .refl _
  | fullRowJobEnd e r u =>
    refine reach_of_becomes h ?_
    split
    · have hs := strikeFrames_work u s.part
      exact .ite (.work (((hs.trans (spoilOutputs_work ..)).trans (frameError_work ..)).trans (afterBand_work _ _)))
        (.work (((hs.trans (placeOutputs_work ..)).trans (writeRow_work ..)).trans (afterBand_work _ _)))
    · exact .refl _
  | fullRowReconstructionJobEnd e r u =>
    refine reach_of_becomes h ?_
    split
    · refine .ite (.work ((countUnwritten_work ..).trans (afterBand_work _ _))) ?_
      have hs := strikeFrames_work u s.part
      refine .ite (.work (((hs.trans (spoilOutputs_work ..)).trans (frameError_work ..)).trans (afterBand_work _ _))) ?_
      split
      · exact .work ((((hs.trans (placeOutputs_work ..)).trans (placeOutputs_work ..)).trans (writeRow_work ..)).trans
          (afterBand_work _ _))
      · exact .work ((hs.trans (countUnwritten_work ..)).trans (afterBand_work _ _))
    · exact .refl _
  | contextLaunch => exact reach_of_becomes h (launchContext_reach _)
  | bandLaunch place => exact reach_of_becomes h (launchBand_reach ..)
  | extensionJoinWriteEnd f => exact reach_of_becomes h (settled (endJoin_reach ..))
  | refillReadEnd b => exact reach_of_becomes h (settled (endRefill_reach ..))
  | checkpointWriteEnd r =>
    refine reach_of_becomes h ?_
    split
    · exact settled ((Reach.slots (List.mem_of_elem_eq_true rfl) _ _).step (storeWriteEnds_work ..))
    · exact .refl _
  | checkpointReadEnd => exact reach_of_becomes h (.ite ((endSlotRead_reach _).step (finish_work _)) (.refl _))
  | enterPaused => exact reach_of_becomes h (.ite (settled (.work (pauseSweep_work _))) (.refl _))
  | enterHalted => exact reach_of_becomes h (.ite (settled (.work (enterHaltedState_work _))) (.refl _))
  | windowTimerExpiry => exact reach_of_becomes h (.ite ((Reach.paceEnd _ _).step (finish_work _)) (.refl _))
  | logBodyWriteEnd f =>
    refine reach_of_becomes h (.ite (fin ?_) (.refl _))
    exact .ite (logFault_work _)
      (.onFindings _ _ (by intro; rfl) (by intro; rfl) (by intro; rfl) (by intro; rfl))
  | logHeaderWriteEnd f =>
    refine reach_of_becomes h (.ite (Reach.step ?_ (finish_work _)) (.refl _))
    exact .ite (.work (logFault_work _)) ((written_reach (List.mem_of_elem_eq_true rfl) _).step (settleWork_work _))
  | deliveryEnd e r u =>
    refine reach_of_becomes h ?_
    split
    · split
      · exact .work (((strikeFrames_work ..).trans (endDelivery_work ..)).trans (afterBand_work _ _))
      · exact .refl _
    · exact .refl _
  | gatherEnd e r u =>
    refine reach_of_becomes h ?_
    split
    · split
      · exact .work ((((setBandDma_work ..).trans (stopOrder_work ..)).trans (dropRows_work ..)).trans (afterBand_work _ _))
      · refine .ite (.work ?_) (.refl _)
        exact ((((setBandDma_work ..).trans (fillGathered_work ..)).trans (strikeFrames_work ..)).trans
          (startRows_work ..)).trans (afterBand_work _ _)
      · exact .refl _
    · exact .refl _

end Sys2Proof.Machine
end

