-- ==== Sys2Proof/Laws/Settle.lean ====
section
/-! SUPPORT. What `settleWork` can do while no join waits: it grants reservations and the locks asked for with them, begins
a refill and begins a log entry, and leaves everything else alone. -/

namespace Sys2Proof.Machine

/-- Everything but the locks, the window's contexts, the reservations' queue, the extension's DMA, the log writer and an
alert cause is equal. -/
structure Part.Settled (p q : Part) : Prop where
  regs : q.regs = p.regs
  engine : q.engine = p.engine
  intake : q.intake = p.intake
  table : q.table = p.table
  status : q.status = p.status
  geometry : q.geometry = p.geometry
  buffer : q.buffer = p.buffer
  lanes : q.lanes = p.lanes
  store : q.store = p.store
  pace : q.pace = p.pace
  freeCount : q.freeCount = p.freeCount
  sweep : { q.sweep with window := p.sweep.window } = p.sweep
  retry : { q.retry with busy := p.retry.busy } = p.retry
  latched : q.alerts.latched = p.alerts.latched
  levels : q.alerts.levels = p.alerts.levels
  pending : ∀ i, p.alerts.pending.getLsbD i = true → q.alerts.pending.getLsbD i = true
  staged : q.findings.staged = p.findings.staged
  area : q.findings.area = p.findings.area
  writeIndex : q.findings.writeIndex = p.findings.writeIndex
  sequence : q.findings.sequence = p.findings.sequence
  lastSequence : q.findings.lastSequence = p.findings.lastSequence

theorem Part.Settled.refl (p : Part) : p.Settled p :=
  ⟨rfl, rfl, rfl, rfl, rfl, rfl, rfl, rfl, rfl, rfl, rfl, rfl, rfl, rfl, rfl, fun _ h => h, rfl, rfl, rfl, rfl, rfl⟩

theorem Part.Settled.trans {p q r : Part} (h : p.Settled q) (k : q.Settled r) : p.Settled r where
  regs := k.regs.trans h.regs
  engine := k.engine.trans h.engine
  intake := k.intake.trans h.intake
  table := k.table.trans h.table
  status := k.status.trans h.status
  geometry := k.geometry.trans h.geometry
  buffer := k.buffer.trans h.buffer
  lanes := k.lanes.trans h.lanes
  store := k.store.trans h.store
  pace := k.pace.trans h.pace
  freeCount := k.freeCount.trans h.freeCount
  sweep := by
    have hs := h.sweep
    have ks := k.sweep
    rw [← ks] at hs
    exact hs
  retry := by
    have hs := h.retry
    have ks := k.retry
    rw [← ks] at hs
    exact hs
  latched := k.latched.trans h.latched
  levels := k.levels.trans h.levels
  pending := fun i x => k.pending i (h.pending i x)
  staged := k.staged.trans h.staged
  area := k.area.trans h.area
  writeIndex := k.writeIndex.trans h.writeIndex
  sequence := k.sequence.trans h.sequence
  lastSequence := k.lastSequence.trans h.lastSequence

theorem Part.Settled.state {p q : Part} (h : p.Settled q) : q.sweep.state = p.sweep.state := by
  rw [← h.sweep]
theorem Part.Settled.haltSet {p q : Part} (h : p.Settled q) : q.sweep.haltSet = p.sweep.haltSet := by
  rw [← h.sweep]
theorem Part.Settled.watermark {p q : Part} (h : p.Settled q) : q.sweep.watermark = p.sweep.watermark := by
  rw [← h.sweep]
theorem Part.Settled.pauseWait {p q : Part} (h : p.Settled q) : q.sweep.pauseWait = p.sweep.pauseWait := by
  rw [← h.sweep]

/-- The requesters a lock request can grant: the asker alone. -/
theorem request_granted (t : LockTable) (q : Requester) (s : Nat) (m : LockMode) :
    (t.request q s m).2 = [] ∨ (t.request q s m).2 = [q] := by
  unfold LockTable.request
  split
  · split
    · rename_i e _
      rcases e.join q m with ⟨e', granted⟩
      cases granted
      · exact .inl rfl
      · exact .inr rfl
    · exact .inl rfl
  · split
    · exact .inr rfl
    · exact .inl rfl

/-- A context's lock request. -/
theorem requestLock_context_settled (place s : Nat) (m : LockMode) (p : Part) :
    p.Settled (requestLock (.context place) s m p) := by
  unfold requestLock
  rcases request_granted p.locks (.context place) s m with h | h <;> rw [h]
  · exact ⟨rfl, rfl, rfl, rfl, rfl, rfl, rfl, rfl, rfl, rfl, rfl, rfl, rfl, rfl, rfl, fun _ h => h, rfl, rfl, rfl, rfl, rfl⟩
  · exact ⟨rfl, rfl, rfl, rfl, rfl, rfl, rfl, rfl, rfl, rfl, rfl, rfl, rfl, rfl, rfl, fun _ h => h, rfl, rfl, rfl, rfl, rfl⟩

theorem modContext_settled (p : Part) (place : Nat) (f : Context → Context) : p.Settled (p.modContext place f) :=
  ⟨rfl, rfl, rfl, rfl, rfl, rfl, rfl, rfl, rfl, rfl, rfl, rfl, rfl, rfl, rfl, fun _ h => h, rfl, rfl, rfl, rfl, rfl⟩

theorem contextReturns_settled (p : Part) (place : Nat) : p.Settled (contextReturns p place) := by
  unfold contextReturns
  split
  · split
    · exact .refl p
    · split
      · split
        · exact (modContext_settled p place _).trans (requestLock_context_settled ..)
        · exact .refl p
      · split
        · exact .refl p
        · exact ⟨rfl, rfl, rfl, rfl, rfl, rfl, rfl, rfl, rfl, rfl, rfl, rfl, rfl, rfl, rfl, fun _ h => h, rfl, rfl, rfl, rfl, rfl⟩
  · exact .refl p

theorem foldl_contextReturns_settled (l : List Nat) (p : Part) : p.Settled (l.foldl contextReturns p) := by
  induction l generalizing p with
  | nil => exact .refl p
  | cons a l ih => exact (contextReturns_settled p a).trans (ih _)

theorem contextsReturn_settled (p : Part) : p.Settled (contextsReturn p) := foldl_contextReturns_settled _ p

theorem grantReservation_settled (p : Part) : p.Settled (grantReservation p) := by
  unfold grantReservation
  split
  · split
    · refine Part.Settled.trans ?_ (contextReturns_settled _ _)
      exact ⟨rfl, rfl, rfl, rfl, rfl, rfl, rfl, rfl, rfl, rfl, rfl, rfl, rfl, rfl, rfl, fun _ h => h, rfl, rfl, rfl, rfl, rfl⟩
    · exact .refl p
  · exact .refl p

theorem grantReservations_settled (p : Part) : p.Settled (grantReservations p) :=
  (((grantReservation_settled p).trans (grantReservation_settled _)).trans (grantReservation_settled _)).trans
    (grantReservation_settled _)

theorem takeRefill_settled (p : Part) : p.Settled (takeRefill p) := by
  unfold takeRefill
  split
  · exact ⟨rfl, rfl, rfl, rfl, rfl, rfl, rfl, rfl, rfl, rfl, rfl, rfl, rfl, rfl, rfl, fun _ h => h, rfl, rfl, rfl, rfl, rfl⟩
  · exact .refl p

/-- A cause raised keeps every pending one. -/
theorem raise_pending (a : AlertUnit) (c : Cause) (i : Nat) (h : a.pending.getLsbD i = true) :
    (a.raise c).pending.getLsbD i = true := by
  simp [AlertUnit.raise, h]

theorem startLog_settled (p : Part) : p.Settled (startLog p) := by
  unfold startLog
  split
  · split
    · split
      · exact .refl p
      · exact ⟨rfl, rfl, rfl, rfl, rfl, rfl, rfl, rfl, rfl, rfl, rfl, rfl, rfl, rfl, rfl,
          fun i h => raise_pending _ _ i h, rfl, rfl, rfl, rfl, rfl⟩
    · exact ⟨rfl, rfl, rfl, rfl, rfl, rfl, rfl, rfl, rfl, rfl, rfl, rfl, rfl, rfl, rfl, fun _ h => h, rfl, rfl, rfl, rfl, rfl⟩
  · exact .refl p

/-- With no join waiting none is taken. -/
theorem takeJoins_nil (n : Nat) (p : Part) (h : p.retry.joins = []) : takeJoins n p = p := by
  cases n with
  | zero => rfl
  | succ n => simp [takeJoins, h]

/-- What `settleWork` does while no join waits. -/
theorem settleWork_settled (p : Part) (h : p.retry.joins = []) : p.Settled (settleWork p) := by
  unfold settleWork
  rw [takeJoins_nil 8 p h]
  exact ((takeRefill_settled p).trans (grantReservations_settled _)).trans (startLog_settled _)

end Sys2Proof.Machine
end

