-- ==== Sys2Proof/WellFormed.lean ====
section
/-! DEFINITION. Which commands have operands the hardware can present: entry, lane, tag, place, word and frame numbers
in range, and byte strings of the lengths their structures have (R82, R61, R100, R194, R48, R203, R205). -/

namespace Sys2Proof

/-- An Order Table entry, 0 to 31 (R190). -/
def entryOk (e : Nat) : Bool := e < 32
/-- A lane, 0 to 23 (00_scope.md, Terms). -/
def laneOk (l : Nat) : Bool := l < 24
/-- A tag, 0 to 15 (R61). -/
def tagOk (t : Nat) : Bool := t < 16
/-- A window place, 0 to 3 (R95). -/
def placeOk (p : Nat) : Bool := p < 4
/-- Frame numbers, 0 to 1,023 (R48). -/
def framesOk (fs : List Nat) : Bool := fs.all (· < 1024)
/-- A row of a stripe: k is at most 64 (R1). -/
def rowOk (r : Nat) : Bool := r < 64
/-- A DMA read of a structure of `n` bytes, or its fault. -/
def readOk (n : Nat) (b : Option (List Byte)) : Bool :=
  match b with
  | none => true
  | some bs => bs.length = n
/-- Bytes read from an 8-byte register: inside it, at least one (R195). -/
def bytesOk (first count : Nat) : Bool := 0 < count && first + count ≤ 8

/-- An owner that can exist (R48, R63). -/
def Owner.wf : Owner → Bool
  | .sweepBand p => placeOk p
  | .orderBand e => entryOk e

/-- The operands are such as the hardware presents. -/
def Instr.wf : Instr → Bool
  | .readExtent e => entryOk e
  | .writeExtent e => entryOk e
  | .loadProfile e => entryOk e
  | .memberState e => entryOk e
  | .startSweep e => entryOk e
  | .pauseSweep e => entryOk e
  | .resumeSweep e => entryOk e
  | .abandonSweep e => entryOk e
  | .setPace e => entryOk e
  | .checkpointNow e => entryOk e
  | .setRetryArea e => entryOk e
  | .report e t => entryOk e && t ≤ 256
  | .barrier e => entryOk e
  | .unknownOrderKind e => entryOk e
  | .anchorWrite _ => true
  | .nudge _ => true
  | .logTakenWrite _ => true
  | .alertRead f c => bytesOk f c
  | .alertWrite _ => true
  | .controlRead f c => bytesOk f c
  | .bind => true
  | .unbind => true
  | .clearChainFault => true
  | .clearLogFault => true
  | .clearBufferParity => true
  | .clearRetryOverflow => true
  | .clearSpareFault => true
  | .clearCheckpointFault => true
  | .engineReset t => t ≤ 256
  | .powerOnReset t => t ≤ 256
  | .hostLinkReset t => t ≤ 256
  | .registerWrite o w _ => 0 < w && w ≤ 8 && o + w ≤ 0x28
  | .anchorRead b => readOk 256 b
  | .unbindDrainEnd => true
  | .recordFetch r =>
    match r with
    | .fault => true
    | .read h sc => h.length = 64 && sc.length ≤ 1024 && sc.length % 16 = 0
  | .linkReread b => readOk 8 b
  | .chainResumeRead b => readOk 8 b
  | .detailWriteEnd e _ => entryOk e
  | .completionWordWriteEnd e _ => entryOk e
  | .reportWriteEnd e _ => entryOk e
  | .statusWordWriteEnd w _ => tagOk w
  | .profileFetch b => readOk 128 b
  | .loadFlushLimit l => laneOk l
  | .requestIssue l u => laneOk l && framesOk u
  | .good l t _ u => laneOk l && tagOk t && framesOk u
  | .medium l t _ _ u => laneOk l && tagOk t && framesOk u
  | .notReady l t u => laneOk l && tagOk t && framesOk u
  | .flushed l => laneOk l
  | .requestTimerExpiry l t u => laneOk l && tagOk t && framesOk u
  | .reclaimFlushLimit l => laneOk l
  | .orderBandGrant => true
  | .reconstructionJobEnd o r u => o.wf && rowOk r && framesOk u
  | .deltaJobEnd e r u => entryOk e && rowOk r && framesOk u
  | .fullRowJobEnd e r u => entryOk e && rowOk r && framesOk u
  | .fullRowReconstructionJobEnd e r u => entryOk e && rowOk r && framesOk u
  | .contextLaunch => true
  | .bandLaunch p => placeOk p
  | .extensionJoinWriteEnd _ => true
  | .refillReadEnd b => readOk 16 b
  | .checkpointWriteEnd r =>
    match r with
    | .good => true
    | .bodyFault l => l.length = 256
    | .tailFault t => t.length = 4
  | .checkpointReadEnd => true
  | .enterPaused => true
  | .enterHalted => true
  | .windowTimerExpiry => true
  | .logBodyWriteEnd _ => true
  | .logHeaderWriteEnd _ => true
  | .deliveryEnd e _ u => entryOk e && framesOk u
  | .gatherEnd e r u =>
    entryOk e && framesOk u &&
      (match r with
       | .fault => true
       | .read bs => bs.all (fun b => b.length = 4096))

end Sys2Proof
end

