-- ==== Sys2Proof/Tests/Slice0.lean ====
section
/-! SUPPORT. The model's own tests: ill-formed commands refused by `Instr.wf`; the spec's worked figures; one-step tests of
commands; and for every statement of Obligations.lean that has hypotheses, states and operands that meet them, clause by
clause. -/

namespace Sys2Proof.Tests

open Sys2Proof Sys2Proof.Machine

/-! ### Ill-formed commands -/

theorem test_wf_entry : ([.readExtent 32, .writeExtent 32, .loadProfile 32, .memberState 32, .startSweep 32, .pauseSweep 32,
    .resumeSweep 32, .abandonSweep 32, .setPace 32, .checkpointNow 32, .setRetryArea 32, .report 32 0, .barrier 32,
    .unknownOrderKind 32, .detailWriteEnd 32 false, .completionWordWriteEnd 32 false, .reportWriteEnd 32 false,
    .deltaJobEnd 32 0 [], .fullRowJobEnd 32 0 [], .fullRowReconstructionJobEnd 32 0 [], .deliveryEnd 32 .good [],
    .gatherEnd 32 .fault []] : List Instr).any Instr.wf = false := by decide

theorem test_wf_lane : ([.loadFlushLimit 24, .requestIssue 24 [], .good 24 0 [] [], .medium 24 0 0 [] [], .notReady 24 0 [],
    .flushed 24, .requestTimerExpiry 24 0 [], .reclaimFlushLimit 24] : List Instr).any Instr.wf = false := by decide

theorem test_wf_tag : ([.good 0 16 [] [], .medium 0 16 0 [] [], .notReady 0 16 [], .requestTimerExpiry 0 16 []] :
    List Instr).any Instr.wf = false := by decide

theorem test_wf_frames : ([.requestIssue 0 [1024], .good 0 0 [] [1024], .medium 0 0 0 [] [1024], .notReady 0 0 [1024],
    .requestTimerExpiry 0 0 [1024], .reconstructionJobEnd (.orderBand 0) 0 [1024], .deltaJobEnd 0 0 [1024],
    .fullRowJobEnd 0 0 [1024], .fullRowReconstructionJobEnd 0 0 [1024], .deliveryEnd 0 .good [1024],
    .gatherEnd 0 .fault [1024]] : List Instr).any Instr.wf = false := by decide

theorem test_wf_row : ([.reconstructionJobEnd (.orderBand 0) 64 [], .deltaJobEnd 0 64 [], .fullRowJobEnd 0 64 [],
    .fullRowReconstructionJobEnd 0 64 []] : List Instr).any Instr.wf = false := by decide

theorem test_wf_owner : ([.reconstructionJobEnd (.orderBand 32) 0 [], .reconstructionJobEnd (.sweepBand 4) 0 []] :
    List Instr).any Instr.wf = false := by decide

theorem test_wf_place : (Instr.bandLaunch 4).wf = false := by decide

theorem test_wf_taken : ([.report 0 257, .engineReset 257, .powerOnReset 257, .hostLinkReset 257] :
    List Instr).any Instr.wf = false := by decide

theorem test_wf_register : ([.alertRead 0 0, .alertRead 4 5, .controlRead 0 0, .controlRead 8 1, .registerWrite 0 0 0,
    .registerWrite 0 9 0, .registerWrite 0x21 8 0] : List Instr).any Instr.wf = false := by decide

theorem test_wf_read_length : ([.anchorRead (some []), .linkReread (some []), .chainResumeRead (some []),
    .profileFetch (some []), .refillReadEnd (some [])] : List Instr).any Instr.wf = false := by decide

theorem test_wf_header : (Instr.recordFetch (.read [] [])).wf = false := by decide

theorem test_wf_scatter : (Instr.recordFetch (.read (List.replicate 64 0) [0])).wf = false := by decide

theorem test_wf_status_word : (Instr.statusWordWriteEnd 16 false).wf = false := by decide

theorem test_wf_store_end : ([.checkpointWriteEnd (.bodyFault []), .checkpointWriteEnd (.tailFault [])] :
    List Instr).any Instr.wf = false := by decide

theorem test_wf_gathered : (Instr.gatherEnd 0 (.read [[0]]) []).wf = false := by decide

/-! ### The spec's worked figures -/

/-- 01_array_geometry_and_members.md, worked case: m = 6, k = 16. -/
def figure : Profile :=
  { signature := 0xABCD, m := 6, k := 16, stripes := 20, base := 100, lanes := [0, 1, 2, 3, 4, 5],
    states := [.online, .online, .online, .online, .target, .online], mend := true, sweepWindow := 2, bandRows := 4,
    retryPasses := 2, timeout := 5, requestRetries := 1, absence := 3, depth := 2, arbiter := .alternate, sweepPool := 64,
    interval := 0,
    pace := { adaptive := true, floor := 8, ceiling := 512, low := 2, high := 6, initial := 64, window := 10 } }

theorem test_block_1000 :
    (figure.stripeOf 1000, figure.dataIndexOf 1000, figure.rowOf 1000, figure.pSlot 15, figure.qSlot 15,
      figure.dataSlot 15 2, figure.lba 15 8) = (15, 2, 8, 2, 3, 0, 100 + 248) := by decide

theorem test_roles_of_stripe_15 :
    (List.range 6).map (figure.role 15) = [.data 2, .data 3, .p, .q, .data 0, .data 1] := by decide

/-- 03_parity_arithmetic.md, section 3.4: the row 0x12, 0x34, 0x56, 0x78, one byte of it. -/
theorem test_q_terms :
    (gfMul (gfPow 1) 0x34, gfMul (gfPow 2) 0x56, gfMul (gfPow 3) 0x78) = (0x68, 0x45, 0xE7) := by decide

/-- The same figures through the sums over blocks, one byte long, against a zero block of that length. -/
theorem test_row_parity :
    ([0x12, 0x34, 0x56, 0x78].foldl (fun a b => addBlocks a [b]) [0],
      addBlocks (scaleBlock (gfPow 3) [0x78]) (addBlocks (scaleBlock (gfPow 2) [0x56])
        (addBlocks (scaleBlock (gfPow 1) [0x34]) [0x12]))) = (([0x08], [0xD8]) : Block × Block) := by decide

/-- Section 3.4, double erasure: g^3·A = 0x5A and D_1 = 0xD5 / 0x0A = 0x34. -/
theorem test_two_data_erased :
    (gfMul (gfPow 3) 0x4C, gfMul (gfInv (gfPow 1 ^^^ gfPow 3)) 0xD5) = ((0x5A, 0x34) : Byte × Byte) := by decide +kernel

/-- Section 3.5, a delta write. -/
theorem test_delta_figures :
    ((0x08#8) ^^^ (0x56 ^^^ 0x9A), (0xD8#8) ^^^ gfMul (gfPow 2) (0x56 ^^^ 0x9A)) = (0xC4, 0xCF) := by decide

/-- R19: the code of the nine ASCII bytes 123456789. -/
theorem test_check_code : checkCode [0x31, 0x32, 0x33, 0x34, 0x35, 0x36, 0x37, 0x38, 0x39] = 0xE3069283 := by
  decide +kernel

/-- 10_pacing.md, section 10.8: twelve windows. -/
def twelveWindows : List (Nat × Nat × Bool) :=
  (([9, 9, 4, 5, 3, 4, 7, 8, 1, 0, 0, 0] : List Nat).foldl (fun (acc : Pace × List (Nat × Nat × Bool)) b =>
      let c := acc.1.windowEnd b
      (c, acc.2 ++ [(c.budget, c.drift, c.track)]))
    ({ Pace.initial with installed := some figure.pace, budget := 64, timer := some 10 }, [])).2

theorem test_twelve_windows : twelveWindows =
    [(32, 0, false), (16, 0, false), (16, 0, false), (16, 0, false), (16, 0, false), (16, 0, true), (14, 1, true),
      (12, 2, true), (13, 1, true), (14, 2, true), (15, 0, false), (30, 0, false)] := by decide +kernel

/-- R154's figures: from 300 below with C = 512, and from 9 above with F = 8. -/
theorem test_doubling_and_halving_are_held :
    (({ Pace.initial with budget := 300 } : Pace).updateAcquire figure.pace 0).budget = 512 ∧
      (({ Pace.initial with budget := 9 } : Pace).updateAcquire figure.pace 7).budget = 8 := by decide

/-- 06_stripe_locks.md, section 6.5: SHARED holders, an EXCLUSIVE waiter and those behind it. -/
theorem test_one_stripe_several_requesters :
    let t0 := LockTable.initial
    let t1 := (t0.request (.order 1) 15 .shared).1
    let t2 := (t1.request (.order 2) 15 .shared).1
    let t3 := (t2.request (.context 0) 15 .exclusive).1
    let t4 := (t3.request (.order 3) 15 .shared).1
    let t5 := (t4.release (.order 1)).1
    ((t4.entries.getD 0 none).map (·.holders), (t4.entries.getD 0 none).map (·.waiters.length),
      (t5.release (.order 2)).2) = (some [.order 1, .order 2], some 2, [.context 0]) := by decide

/-- 10_pacing.md, section 10.9: a next set is installed at the window's end, after the old set's update. -/
theorem test_next_set_at_window_end :
    let x : PaceSet := { figure.pace with floor := 4, ceiling := 32, low := 1, high := 4, initial := 32 }
    let c := (({ Pace.initial with installed := some figure.pace, budget := 40, timer := some 10 } : Pace).offer x)
    (c.budget, c.next, (c.windowEnd 1).budget, (c.windowEnd 1).remaining, (c.windowEnd 1).installed) =
      (40, some x, 32, 32, some x) := by decide

/-! ### States for the witnesses -/

/-- A part with the profile of the figures installed, BOUND, its intake FOLLOWING, its six lanes OPEN, 32 frames, half of
them sweep frames. -/
def ready : Part :=
  { Part.initial with
    engine := { state := .bound, drained := false },
    intake := { Intake.initial with state := .following, depth := some 2, fetch := .live, fetchAddress := 0x10000 },
    geometry := { Geometry.initial with profile := some figure, members := memberTable figure },
    buffer := { frames := List.replicate 16 { Frame.initial with pool := some .sweep } ++
                  List.replicate 16 { Frame.initial with pool := some .order }, queue := [] },
    lanes := List.replicate 6 { Lane.initial with state := .opened } ++ List.replicate 18 Lane.initial,
    findings := { Findings.initial with area := some (0x20000, 16) },
    pace := { Pace.initial with installed := some figure.pace, budget := 64 } }

/-- The same in a sweep state, its window timer running. -/
def sweepIn (st : SweepState) : Part :=
  { ready with
    sweep := { Sweep.initial with state := st },
    pace := { Pace.initial with installed := some figure.pace, budget := 64, remaining := 5, timer := some 10 } }

/-- A part with every member ONLINE. -/
def noTarget (p : Part) : Part :=
  { p with geometry := { p.geometry with members := p.geometry.members.map fun m =>
      if m.state = .target then { m with state := .online } else m } }

/-- A state with a command waiting. -/
def queued (p : Part) (c : Instr) : State := { part := p, pending := [c] }

/-- A state with no command waiting. -/
def still (p : Part) : State := { part := p, pending := [] }

/-- An order record of a kind with its parameters; an extent of `p1` blocks has one scatter entry for all of them. -/
def order (kind : Nat) (p0 p1 p2 : Word) : OrderRecord :=
  { address := 0x10000, kind, notify := true, scatterCount := 1, tag := 7, p0, p1, p2,
    scatter := [{ address := 0x80000, length := p1.toNat * 4096 }] }

/-- A state whose entry 31 is doing `w` for a record. -/
def doing (r : OrderRecord) (w : OrderWork) (p : Part) : State :=
  still { p with table := { entries := List.replicate 31 none ++ [some { record := r, work := w }], handed := [] } }

/-- A state whose entry 31 was just handed over. -/
def handed (r : OrderRecord) (p : Part) : State :=
  still { p with table := { entries := List.replicate 31 none ++ [some { record := r, work := .handed }],
                            handed := [31] } }

/-- An order handed over is the next to be taken. -/
theorem handed_ready (r : OrderRecord) (p : Part) : OrderReady (handed r p) 31 r := ⟨rfl, rfl⟩

/-- A condition is latched. -/
def latched (c : Condition) (p : Part) : Part := latch c p

/-! ### Witnesses: the interface and the laws -/

theorem witness_StepRunsTheFrontCommand : State.reset.pending = [] := rfl

/-- A SWEEPING part at the end of a window. -/
theorem witness_EveryStepKeepsThePaceLaw :
    PaceLaw (sweepIn .sweeping) ∧ ∃ t, step (queued (sweepIn .sweeping) .windowTimerExpiry) = .next t := by
  refine ⟨⟨?_, ?_, by decide, by decide, by decide, by decide, by decide, by decide⟩, _, rfl⟩
  · intro x h; cases h; exact ⟨by unfold PaceSet.Ok PaceSet.InRange; decide, by decide, by decide⟩
  · intro x h; cases h

/-- A table with one SHARED holding, an EXCLUSIVE waiter behind it. -/
def oneLock : Part :=
  { sweepIn .sweeping with
    locks := { entries := [some (.fresh 0 .shared [.order 31] [(.order 30, .exclusive)])] ++ List.replicate 15 none,
               waiting := [] } }

theorem witness_EveryStepKeepsTheLockLaw :
    LockLaw oneLock ∧ ∃ t, step (queued oneLock .contextLaunch) = .next t := by
  refine ⟨⟨?_, by decide, ?_, by decide⟩, _, rfl⟩
  · intro e h
    rcases List.mem_append.mp h with h | h
    · cases List.mem_singleton.mp h
      exact ⟨by decide, by decide, by decide⟩
    · cases List.eq_of_mem_replicate h
  · intro w h; cases h

/-- A READ of row 0 of stripe 0 from a slot on its lane. -/
def aRead (slot count : Nat) : LaneRequest :=
  { owner := .orderBand 31, write := false, slot, lane := slot, lba := 100, count, row := 0, frames := [16, 17],
    mend := false, retries := 0, origin := .first }

/-- A WRITE of one block by a sweep band. -/
def aWrite (slot : Nat) : LaneRequest :=
  { aRead slot 1 with owner := .sweepBand 0, write := true, frames := [0] }

/-- Lane 0 with tags and queues. -/
def lane0 (tags : List Tag) (sweep orders : List LaneRequest) (p : Part) : Part :=
  { p with
    lanes := { Lane.initial with state := .opened, tags := tags ++ List.replicate (16 - tags.length) .free,
                                 sweepQueue := sweep, orderQueue := orders } :: p.lanes.drop 1 }

theorem witness_EveryStepKeepsTheTagLaw :
    TagLaw (lane0 [.issued (aRead 0 1) []] [] [aRead 0 1] ready) ∧
      ∃ t, step (queued (lane0 [.issued (aRead 0 1) []] [] [aRead 0 1] ready) (.requestIssue 0 [])) = .next t := by
  refine ⟨?_, _, rfl⟩
  intro l h
  refine ⟨?_, ?_⟩
  · revert l; decide
  · intro g hg; cases hg; revert l; decide

theorem witness_EveryStepKeepsTheMemberLaws :
    MemberLaw ready ∧ CounterLaw ready ∧
      ∃ t, step (queued (lane0 [.issued (aRead 0 1) []] [] [] ready) (.requestTimerExpiry 0 0 [])) = .next t := by
  refine ⟨by unfold MemberLaw; decide, ?_, _, rfl⟩
  intro m h
  refine ⟨?_, ?_, ?_, ?_⟩
  · revert m; decide
  · revert m; decide
  · revert m; decide
  · intro g hg; cases hg; revert m; decide

/-- A context of the window. -/
def aContext : Context :=
  { Context.launch 0 1 .main none with phase := .banding }

/-- A Retry List with a join write in flight, its extension holding one entry. -/
def aRetry : RetryList :=
  { RetryList.initial with
    onChip := [{ stripe := 3, attempt := 2, reason := .timeout, taken := none }], capacity := 4, count := 1, tail := 1,
    range := some (2, 5), spilled := true,
    busy := .join { place := 0, stripe := 9, attempt := 2, reason := .notReady, move := false } false }

/-- A part with a context settling by that join. -/
def joining : Part :=
  { sweepIn .sweeping with
    retry := aRetry,
    sweep := { Sweep.initial with
               state := .sweeping, next := 10, watermark := 9,
               window := some { aContext with stripe := 9, phase := .settling, nextRow := 16, joining := true,
                                              deferral := some .notReady } :: List.replicate 3 none } }

theorem witness_EveryStepKeepsTheStagingAndRetryLaws :
    StagingLaw joining ∧ RetryLaw joining ∧
      ∃ t, step (queued joining (.extensionJoinWriteEnd false)) = .next t := by
  refine ⟨by unfold StagingLaw; decide, ⟨by decide, by decide, ?_, ?_⟩, _, rfl⟩
  · intro j h; decide
  · intro h; cases h

/-- A part with every word of its status page at rest with its latest value. -/
def synced (p : Part) : Part :=
  { p with status := (List.range 16).map fun i => { value := p.statusValue i, writing := none, waiting := false } }

theorem synced_law (p : Part) : StatusLaw (synced p) := by
  intro _ i w h
  simp only [synced, List.getElem?_map] at h
  cases hr : (List.range 16)[i]? with
  | none => rw [hr] at h; cases h
  | some j =>
    rw [hr] at h
    have hj : j = i := by
      have := List.getElem?_eq_some_iff.mp hr
      obtain ⟨_, e⟩ := this
      simpa using e.symm
    subst hj
    cases h
    exact ⟨fun _ => rfl, fun v hv => by cases hv⟩

/-- A part with a pending cause that does not qualify, every word of its page at its latest value, and a record that waits
behind a BARRIER. -/
def following : Part :=
  synced { ready with
    alerts := { AlertUnit.initial with pending := 0x20, levels := [1, 1, 1, 1, 1, 1, 1, 1, 1], mask := 1 },
    intake := { ready.intake with holding := [order 0x30 0 2048 0], barrier := some 0 } }

theorem witness_EveryStepKeepsTheFollowingLaws :
    AttentionLaw following ∧ StatusLaw following ∧ DispatchLaw following ∧
      ∃ t, step (queued following (.alertWrite 0)) = .next t := by
  refine ⟨?_, synced_law _, ?_, _, rfl⟩
  · unfold AttentionLaw; constructor
    · intro h; cases h
    · rintro ⟨-, h⟩; revert h; decide
  · intro _ _ _; exact Or.inl (by decide)

/-- A part UNBINDING before its last stretch, every word of its page at its latest value. -/
theorem witness_EveryStepKeepsTheFollowingLaws_unbinding :
    let p := synced { sweepIn .pausing with engine := { state := .unbinding, drained := false } }
    StatusLaw p ∧ p.engine.state = .unbinding ∧ p.engine.drained = false ∧ p.status.length = 16 ∧
      ∃ t, step (queued p .enterPaused) = .next t :=
  ⟨synced_law _, rfl, rfl, rfl, _, rfl⟩

/-- A nudge touches none of what a command may touch. -/
theorem witness_ACommandChangesOnlyWhatItTouches :
    (∃ t, exec (.nudge 0) (still ready) = .next t) ∧
      ∀ x : Touch, x ∉ touches (.nudge 0) :=
  ⟨⟨_, rfl⟩, fun x => by cases x <;> decide⟩

/-! ### Witnesses: arithmetic -/

theorem witness_AddressMappingAndRolesAgree :
    6 ≤ figure.m ∧ 0 < figure.k ∧ 1279 < figure.arrayBlocks ∧ figure.arrayBlocks ≤ 1280 ∧ 3 < figure.n ∧ 5 < figure.m := by
  decide

theorem witness_TheTablesGiveTheFieldProduct :
    ((255 : Byte) ≠ 0 ∧ (1 : Byte) ≠ 0) ∧ 254 < 255 ∧ 255 ≤ 255 ∧ (0 < 255 ∧ 0 ≠ 254) ∧
      2 * (0x7F : Byte).toNat ≤ 0xFF ∧ ¬2 * (0x80 : Byte).toNat ≤ 0xFF := by decide

/-- A block of one byte over and over. -/
def full (b : Byte) : Block := List.replicate 4096 b

theorem full_length (b : Byte) : (full b).length = 4096 := List.length_replicate

theorem pair_length {x y : Byte} {b : Block} (h : b ∈ [full x, full y]) : b.length = 4096 := by
  simp only [List.mem_cons, List.not_mem_nil, or_false] at h
  rcases h with rfl | rfl <;> exact full_length _

/-- Two data blocks, the first and P erased; with Q erased too, three. -/
def twoErased (q : Option Block) : RowView := { data := [none, some (full 0x34)], p := none, q }

theorem witness_ReconstructionRestoresTheRow :
    let data := [full 0x12, full 0x34]
    data.length ≤ 22 ∧ (∀ b ∈ data, b.length = 4096) ∧
      (∀ q, (twoErased q).data.length = data.length ∧
        ∀ (i : Nat) (b : Block), (twoErased q).data[i]? = some (some b) → data[i]? = some b) ∧
      (∀ b, (twoErased (some (parityQ data))).p = some b → b = parityP data) ∧
      (∀ b, (twoErased (some (parityQ data))).q = some b → b = parityQ data) ∧
      (twoErased (some (parityQ data))).erasures = 2 ∧ (twoErased none).erasures = 3 := by
  refine ⟨by decide, fun b h => pair_length h, fun q => ⟨rfl, ?_⟩, ?_, ?_, rfl, rfl⟩
  · intro i b h
    match i, h with
    | 0, h => cases h
    | 1, h => cases h; rfl
  · intro b h; cases h
  · intro b h; cases h; rfl

theorem witness_DeltaParityIsTheNewRowsParity :
    let old := [full 0x12, full 0x34]
    let new := [full 0x12, full 0x56]
    old.length = new.length ∧ (∀ b ∈ old, b.length = 4096) ∧ (∀ b ∈ new, b.length = 4096) ∧ [1].Nodup ∧
      (∀ i ∈ [1], i < old.length) ∧ ∀ i, i ∉ [1] → old[i]? = new[i]? := by
  refine ⟨rfl, fun b h => pair_length h, fun b h => pair_length h, by decide, by decide, ?_⟩
  intro i h
  match i with
  | 0 => rfl
  | 1 => simp at h
  | n + 2 => rfl

theorem witness_FreshTrailersPassOnlyWhereTheyBelong :
    23 < 24 ∧ (full 0x34).length = 4096 ∧ 22 ≠ 23 ∧ homeStripe 16777215 ≠ homeStripe 16777216 :=
  ⟨by decide, full_length _, by decide, by decide⟩

/-- A sweep band of stripe 0's context. -/
def aBand : SweepBand :=
  { row0 := 0, count := 1, target := 4, readers := [0, 1, 2, 3, 5],
    places := sweepLayout [0, 1, 2, 3, 5] 4 [0] [0, 1, 2, 3, 4, 5],
    results := [(0, 0, .good), (0, 1, .good), (0, 2, .good), (0, 3, .good), (0, 5, .good)], stage := .rebuilding,
    jobs := [{ row := 0, erased := [4], wanted := [4] }], writeRows := [0], mends := [] }

/-- A sweep band of one row that has read its slots, two of them erased so. -/
def readBand (a b : ErasureKind) : SweepBand :=
  { aBand with
    results := [(0, 0, .erased a), (0, 1, .erased b), (0, 2, .good), (0, 3, .good), (0, 5, .good)], stage := .reading,
    jobs := [], writeRows := [] }

/-- A part whose place 0 holds stripe 0's context with this band. -/
def bandOf (b : SweepBand) : Part :=
  { sweepIn .sweeping with
    sweep := { Sweep.initial with
               state := .sweeping, next := 1, window := some { aContext with nextRow := 1, band := some b } ::
                 List.replicate 3 none } }

theorem witness_RowClassesFollowTheErasures :
    (aBand.target < figure.m ∧ ({ aBand with target := 5 }).target < figure.m) ∧
      (∀ b, (bandOf b).geometry.profile = some figure ∧
        (bandOf b).context? 0 = some { aContext with nextRow := 1, band := some b } ∧
        (bandOf b).outstanding (.sweepBand 0) = []) ∧
      (readBand .medium .poison).stage = .reading ∧ aBand.rowClass figure 1 0 = .recoverable ∧
      (readBand .timeout .notReady).rowClass figure 1 0 = .deferrable .timeout ∧
      (readBand .medium .poison).rowClass figure 1 0 = .lost ∧
      (readBand .timeout .notReady).rowClass figure figure.retryPasses 0 = .lost ∧
      (frameAt aBand.places 0 4 .new = some 5 ∧ 5 < ready.buffer.frames.length ∧ (ready.frame 5).state ≠ .unfit) ∧
      (0 < 24 ∧ 23 < 24) :=
  ⟨by decide, fun _ => ⟨rfl, rfl, rfl⟩, rfl, by decide, by decide, by decide, by decide, by decide, by decide⟩

theorem witness_TheTopCauseIsTheHighestPending :
    AlertUnit.initial.topCode = 0 ∧ ({ AlertUnit.initial with pending := 0x800 }).topCode = 11 + 1 ∧
      ({ AlertUnit.initial with pending := 0x801 }).topCode = 0 + 1 := by decide

theorem witness_TheResumePointCoversTheRetryList :
    { stripe := 3, attempt := 2, reason := .timeout, taken := none } ∈ joining.retry.onChip ∧
      joining.retry.extensionInUse = true ∧ joining.retry.range = some (2, 5) ∧ 1 < joining.resumePoint ∧
      ready.retry.isEmpty = true ∧ ready.retry.joinWriting = false ∧ joining.store.write = none ∧
      ∃ w, (beginStoreWrite joining).store.write = some w :=
  ⟨by decide, by decide, by decide, by decide, by decide, by decide, by decide, _, rfl⟩

theorem witness_ACompletedRecordIsTheCurrentOne :
    joining.geometry.profile = some figure ∧ recordedState joining.sweep.state ≠ none ∧ joining.store.write = none ∧
      joining.store.slots.length = 2 ∧ ∀ b ∈ joining.store.slots, b.length = 256 := by
  refine ⟨rfl, by decide, rfl, rfl, ?_⟩
  intro b h
  cases List.eq_of_mem_replicate (n := 2) (a := List.replicate 256 (0 : Byte)) h
  exact List.length_replicate

theorem witness_TheArbiterNamesTheIssuingClass :
    let l (s o : List LaneRequest) : Lane := { Lane.initial with sweepQueue := s, orderQueue := o }
    ((l [] []).sweepQueue = [] ∧ (l [] []).orderQueue = []) ∧
      ((l [aWrite 0] []).sweepQueue ≠ [] ∧ (l [aWrite 0] []).orderQueue = []) ∧
      ((l [] [aRead 0 1]).sweepQueue = [] ∧ (l [] [aRead 0 1]).orderQueue ≠ []) ∧
      (l [aWrite 0] [aRead 0 1]).sweepQueue ≠ [] ∧ (l [aWrite 0] [aRead 0 1]).orderQueue ≠ [] := by
  simp

/-! ### Order bands for the witnesses -/

/-- A part with frames whose owner is entry 31's band: order frames 16 to 31, LOADED. -/
def bandFrames (p : Part) : Part :=
  { p with
    buffer := { frames := List.replicate 16 { Frame.initial with pool := some .sweep } ++
                  List.replicate 16 { Frame.initial with pool := some .order, owner := some (.orderBand 31),
                                                         state := .loaded }, queue := [] } }

/-- A row of stripe 15's band. -/
def aRow (phase : RowPhase) (method : Method) (want : List Nat) (job : Option RowJob) : RowWork :=
  { row := 8, want, phase, method, asked := want, results := [], job, ready := want }

/-- An order on stripe 15 with a band of one row. -/
def anExtent (write : Bool) (row : RowWork) (dma : BandDma) : Extent :=
  { Extent.start with
    stripe := some 15, lock := .held, rebuilt := some false, unbuilt := some 4,
    band := some { granted := true, rows := [row],
                   places := rowLayout figure write 8 (List.range 12 |>.map (· + 16)), dma } }

/-- A READ or WRITE EXTENT of array block 1000, in stripe 15, row 8, at its band. -/
def banding (write : Bool) (row : RowWork) (dma : BandDma) : State :=
  doing (order (if write then 0x02 else 0x01) 1000 1 0) (.extent (anExtent write row dma)) (bandFrames ready)

theorem witness_PlacedBlocksStandInTheirFrames :
    ∃ v, (banding true (aRow .job .delta [0] none) .idle).part.bandView 31 = some v ∧
      (([(2, full 0x08), (3, full 0xD8)] : List (Nat × Block)).filterMap fun x => frameAt v.band.places 8 x.1 .new) =
        [24, 25] ∧ [24, 25].Nodup ∧
      24 < (bandFrames ready).buffer.frames.length ∧ ((bandFrames ready).frame 24).state ≠ .unfit ∧ 26 ∉ [24, 25] :=
  ⟨_, rfl, by decide, by decide, by decide, by decide, by decide⟩

/-! ### Witnesses: the register window -/

/-- The part with the engine in a state. -/
def engineIn (st : EngineState) (p : Part) : Part := { p with engine := { state := st, drained := false } }

theorem witness_RegisterValuesAreTaken :
    (engineIn .unbound ready).engine.state = .unbound ∧ (engineIn .binding ready).engine.state = .binding ∧
      ready.engine.state = .bound ∧ (engineIn .unbinding ready).engine.state = .unbinding ∧
      ready.findings.area = some (0x20000, 16) := by decide

theorem witness_ReadsReturnAndClear :
    ready.alerts.mask ≤ 3 ∧ (0 < 8 ∧ 0 + 8 ≤ 8) ∧ (0 < 1 ∧ 7 + 1 ≤ 8) ∧ (0 < 1 ∧ 0 + 1 ≤ 8) := by decide

/-- The values of CONTROL that name each command, the least and the greatest that name none, and CLEAR of nothing. -/
theorem witness_ARegisterWriteHasItsRegistersEffect :
    (7 ≠ 8 ∧ 9 ≠ 8) ∧ State.reset.part.engine.state = .unbound ∧ (1 : Word).toNat % 256 = 1 ∧ (2 : Word).toNat % 256 = 2 ∧
      (∀ c : Condition, (BitVec.ofNat 64 (3 + 256 * 2 ^ c.bit)).toNat % 256 = 3 ∧
        (BitVec.ofNat 64 (3 + 256 * 2 ^ c.bit)).toNat / 256 % 64 = 2 ^ c.bit) ∧
      (4 : Word).toNat % 256 = 4 ∧ (0 : Word).toNat % 256 = 0 ∧ 4 < (5 : Word).toNat % 256 ∧
      4 < (255 : Word).toNat % 256 ∧ (3 : Word).toNat % 256 = 3 ∧ (3 : Word).toNat / 256 % 64 = 0 := by
  refine ⟨by decide, by decide, by decide, by decide, ?_, by decide, by decide, by decide, by decide, by decide, by decide⟩
  intro c; cases c <;> decide

/-- CLEAR of all six conditions, of which a HALTED part has these latched: with one, two and all of them. -/
theorem witness_ARegisterWriteHasItsRegistersEffect_clear :
    let p (cs : List Condition) : Part := cs.foldl (fun q c => latch c q)
      { sweepIn .halted with
        sweep := { Sweep.initial with state := .halted, haltSet := 4 },
        store := { CheckpointStore.initial with again := true } }
    (0x3F03 : Word).toNat % 256 = 3 ∧ (0x3F03 : Word).toNat / 256 % 64 ≠ 0 ∧
      (∀ c : Condition, (0x3F03 : Word).toNat / 2 ^ (8 + c.bit) % 2 = 1) ∧
      (∀ c : Condition, (p allConditions).isLatched c = true) ∧ (p [.chainFault]).isLatched .logFault = false ∧
      (p allConditions).retry.joins = [] ∧ (p allConditions).sweep.state = .halted ∧
      Condition.retryOverflow.haltCause = some .retryOverflow ∧
      clearBit (p allConditions).sweep.haltSet HaltCause.retryOverflow.bit = 0 ∧
      ((p allConditions).targetSlot ≠ none ∧ (noTarget (p allConditions)).targetSlot = none) ∧
      (p allConditions).condition ≠ .failed ∧ (p allConditions).loading = false ∧ (p allConditions).sweep.pass = .main ∧
      (p allConditions).sweep.watermark < (p allConditions).stripeCount ∧ (p allConditions).engine.state = .bound ∧
      (p allConditions).store.again = true ∧ (p allConditions).geometry.profile ≠ none ∧
      recordedState (p allConditions).sweep.state ≠ none := by
  refine ⟨by decide, by decide, ?_, ?_, by decide, by decide, by decide, by decide, by decide, by decide, by decide,
    by decide, by decide, by decide, by decide, by decide, by decide, by decide⟩
  · intro c; cases c <;> decide
  · intro c; cases c <;> decide

theorem witness_BindAndUnbindMoveTheEngine :
    let misaligned : Part := { Part.initial with regs := { Registers.initial with anchor := 255 } }
    let drained : Part := { Part.initial with engine := { state := .unbinding, drained := true } }
    (State.reset.part.engine.state = .unbound ∧ State.reset.part.regs.anchor.toNat % 256 = 0) ∧
      (misaligned.engine.state = .unbound ∧ misaligned.regs.anchor.toNat % 256 ≠ 0) ∧
      (ready.engine.state = .bound ∧ ready.sweep.inPass = false) ∧
      ((sweepIn .retrying).engine.state = .bound ∧ (sweepIn .retrying).sweep.inPass = true) ∧
      (engineIn .binding ready).engine.state ≠ .bound ∧ (engineIn .binding ready).engine.state ≠ .unbound ∧
      (drained.engine.state = .unbinding ∧ drained.engine.drained = true ∧ drained.dmaQuiet = true ∧
        drained.sweep.atRest = true) ∧
      (let writing := { drained with findings := { Findings.initial with writer := .header } }
       writing.engine.drained = true ∧ writing.sweep.atRest = true ∧ writing.dmaQuiet = false) ∧
      ((engineIn .unbinding (sweepIn .pausing)).engine.drained = false ∧ (sweepIn .pausing).sweep.atRest = false) ∧
      ready.engine.state ≠ .unbinding := by decide

/-- The 8 bytes of a word. -/
def wordBytes (n : Nat) : List Byte := leBytes 8 n

/-- An anchor block with these first record and log capacity. -/
def anchorBlock (first capacity : Nat) : List Byte :=
  wordBytes first ++ wordBytes 0 ++ wordBytes 0x20000 ++ leBytes 4 capacity ++ [2, 0, 0, 0] ++ wordBytes 0x30000 ++
    leBytes 4 4 ++ reserved 4 ++ wordBytes 0x40000 ++ [1, 1, 2, 1, 1, 1, 1, 1, 1] ++ reserved 191

theorem witness_TheAnchorReadEndsABind :
    let p := engineIn .binding Part.initial
    let inUse : Part := { p with retry := aRetry }
    p.engine.state = .binding ∧ p.retry.joins = [] ∧
      (anchorOk (anchorOf (anchorBlock 0x10000 16)) = true ∧ p.isLatched .chainFault = false ∧
        chainAddressOk (wordField (anchorBlock 0x10000 16) 0) = true) ∧
      (anchorOk (anchorOf (anchorBlock 0x10020 65535)) = true ∧
        chainAddressOk (wordField (anchorBlock 0x10020 65535) 0) = false) ∧
      (anchorOk (anchorOf (anchorBlock 0x10000 15)) = false ∧ anchorOk (anchorOf (anchorBlock 0x10000 65536)) = false) ∧
      (p.retry.extensionInUse = false ∧ p.retry.refilling = false) ∧
      inUse.retry.extensionInUse = true ∧ (latched .chainFault p).isLatched .chainFault = true ∧ 15 < p.status.length := by
  decide +kernel

/-- A part HALTED with this cause in its halt set, its condition latched. -/
def haltedBy (c : Condition) (h : HaltCause) : Part :=
  latch c { sweepIn .halted with sweep := { Sweep.initial with state := .halted, haltSet := setBit 0 h.bit } }

/-- A checkpoint write in flight, 3 of its byte writes taken. -/
def storing (st : SweepState) : Part :=
  (beginStoreWrite (sweepIn st)).onStore fun c => c.takeTo 3

theorem witness_ClearTakesBackItsConditionAlone :
    (∀ c : Condition, ready.isLatched c = false ∧ (latched c ready).isLatched c = true ∧
      (latched c ready).retry.joins = []) ∧
      (let p := haltedBy .bufferParity .bufferParity
       p.isLatched .bufferParity = true ∧ p.retry.joins = [] ∧ Condition.bufferParity.haltCause = some .bufferParity ∧
         p.sweep.state = .halted ∧ clearBit p.sweep.haltSet HaltCause.bufferParity.bit = 0 ∧ p.targetSlot ≠ none ∧
         p.condition ≠ .failed ∧ p.sweep.pass = .main ∧ p.sweep.watermark < p.stripeCount ∧
         (noTarget p).targetSlot = none) ∧
      Condition.chainFault.haltCause = none ∧ ready.engine.state = .bound ∧
      (let p := latched .checkpointFault { sweepIn .paused with store := { CheckpointStore.initial with again := true } }
       p.store.again = true ∧ p.geometry.profile ≠ none ∧ recordedState p.sweep.state ≠ none) := by
  refine ⟨?_, by decide, by decide, by decide, by decide⟩
  intro c; cases c <;> decide

/-- A HALTED part whose one halt cause is RETRY_OVERFLOW: during a load, in the retry pass, and with a join that waits. -/
theorem witness_ClearTakesBackItsConditionAlone_halted :
    let h := haltedBy .retryOverflow .retryOverflow
    let loading : Part := { h with geometry := { h.geometry with
      load := some { entry := 31, fetching := true, unsettled := [], absentSlots := 0 } } }
    let retrying : Part := { h with retry := { aRetry with busy := .idle }, sweep := { h.sweep with pass := .retry } }
    let waiting : Part := { h with retry := { aRetry with
      busy := .idle, joins := [{ place := 0, stripe := 9, attempt := 2, reason := .notReady, move := false }] } }
    h.isLatched .retryOverflow = true ∧ clearBit h.sweep.haltSet HaltCause.retryOverflow.bit = 0 ∧
      loading.loading = true ∧ loading.targetSlot ≠ none ∧ loading.condition ≠ .failed ∧ loading.retry.joins = [] ∧
      (retrying.sweep.pass = .retry ∧ retrying.retry.isEmpty = false ∧ retrying.loading = false ∧
        retrying.targetSlot ≠ none ∧ retrying.condition ≠ .failed ∧ retrying.engine.state = .bound) ∧
      (waiting.retry.joins.length = 1 ∧ waiting.retry.busy = .idle ∧ waiting.mayBeginDma = true ∧
        waiting.retry.count < waiting.retry.capacity ∧ waiting.sweep.pass = .main) ∧
      (latched .chainFault ready).isLatched .chainFault = true := by decide

theorem witness_ResetsLeaveTheResetValues :
    (Instr.engineReset 256 = .engineReset 256) ∧ ready.store.write = none ∧
      ∃ w, (storing .paused).store.write = some w ∧ w.slot = 0 ∧ 1 ≠ w.slot :=
  ⟨rfl, rfl, _, rfl, rfl, by decide⟩

/-! ### Witnesses: the chain -/

/-- A record header of a kind with this link. -/
def header (kind : Nat) (link : Nat) : List Byte :=
  reserved 24 ++ wordBytes link ++ [BitVec.ofNat 8 kind, 1, 1, 0] ++ leBytes 4 7 ++ wordBytes 0 ++ wordBytes 1 ++ wordBytes 0

/-- A part PARKED with its link being reread. -/
def parked : Part :=
  { ready with
    intake := { Intake.initial with state := .parked, parked := some 0x10000, reread := .live, depth := some 2 } }

/-- A part FAULTED with the chain resume address being read. -/
def resuming : Part :=
  { ready with intake := { Intake.initial with state := .faulted, resumeRead := .live, depth := some 2 } }

theorem witness_ParkedAndFaultedChainsGoOn :
    (parked.intake.state = .parked ∧ parked.intake.reread = .live) ∧ wordField (wordBytes 0) 0 = 0 ∧
      (wordField (wordBytes 64) 0 ≠ 0 ∧ aligned 64 (wordField (wordBytes 64) 0) = true) ∧
      aligned 64 (wordField (wordBytes 63) 0) = false ∧
      (resuming.intake.resumeRead = .live ∧ resuming.intake.state = .faulted) ∧
      chainAddressOk (wordField (wordBytes 64) 0) = true ∧ chainAddressOk (wordField (wordBytes 0) 0) = false ∧
      chainAddressOk (wordField (wordBytes 65) 0) = false := by decide

theorem witness_AFetchedRecordsLinkIsFollowed :
    (ready.intake.fetch = .live ∧ ready.intake.state = .following) ∧ recordLink (header 0x30 0) = 0 ∧
      (recordLink (header 0x30 64) ≠ 0 ∧ aligned 64 (recordLink (header 0x30 64)) = true) ∧
      aligned 64 (recordLink (header 0x30 63)) = false ∧
      let nudged (reread : ReadFlight) : Part := { ready with intake := { ready.intake with latch := true, reread } }
      ((nudged .none).intake.fetch = .live ∧ (nudged .none).intake.state = .following) ∧
        ((nudged .none).intake.latch = true ∧ (nudged .none).intake.reread = .none) ∧
        ((nudged .stale).intake.latch = true ∧ (nudged .stale).intake.reread ≠ .none) := by decide

theorem witness_DetailWordsThenTheCompletionWord :
    let r := order 0x30 0 2048 0
    (doing r (.completing .ok 2048 0 false) ready).part.entry? 31 =
        some { record := r, work := .completing .ok 2048 0 false, writes := [] } ∧
      ready.intake.state ≠ .stopped ∧
      (doing r (.completing .ok 2048 0 true) ready).part.entry? 31 =
        some { record := r, work := .completing .ok 2048 0 true, writes := [] } ∧
      (r.notify = true ∧ ({ r with notify := false }).notify = false) ∧
      let stopped : Part := { ready with intake := { ready.intake with state := .stopped, parked := some 0x10000 } }
      (doing r (.completing .ok 2048 0 true) stopped).part.intake.state = .stopped := by decide

theorem witness_AStatusWordIsRewrittenOnce :
    let word (x : Word) (waiting : Bool) : StatusWord :=
      { value := x, writing := some { address := 0x40078, bytes := leBytes 8 x.toNat }, waiting }
    let idle : StatusWord := { value := 5, writing := none, waiting := false }
    let p (w : StatusWord) : Part :=
      { ready with intake := { ready.intake with statusPage := some 0x40000 },
                   status := List.replicate 13 StatusWord.initial ++ [idle, StatusWord.initial, w] }
    (∀ w, (p w).engine.state = .bound ∧ (p w).intake.statusPage = some 0x40000 ∧ (p w).status[15]? = some w) ∧
      ((word 5 true).writing ≠ none ∧ (word 5 true).waiting = true ∧ (word 5 false).waiting = false) ∧
      (let s := still (p (word 0 false))
       ∃ t, exec (.statusWordWriteEnd 15 false) s = .next t ∧ t.part.statusValue 15 = 0 ∧ t.part.statusValue 14 = 0 ∧
         t.part.statusValue 13 ≠ 5) ∧
      (p idle).status[13]? = some idle ∧ (p idle).status[14]? = some StatusWord.initial ∧
      StatusWord.initial.value = 0 ∧ StatusWord.initial.writing = none ∧ StatusWord.initial.waiting = false :=
  ⟨fun _ => ⟨rfl, rfl, rfl⟩, by decide, ⟨_, rfl, by decide, by decide, by decide⟩, rfl, rfl, rfl, rfl, rfl⟩

/-- A status word whose write ends in UNBINDING, before the last stretch and in it. -/
theorem witness_AStatusWordIsRewrittenOnce_unbinding :
    let w (waiting : Bool) : StatusWord := { value := 5, writing := some { address := 0x40000, bytes := [] }, waiting }
    let p (st : SweepState) (drained waiting : Bool) : Part :=
      { sweepIn st with engine := { state := .unbinding, drained },
                        intake := { Intake.initial with statusPage := some 0x40000 },
                        status := w waiting :: List.replicate 15 StatusWord.initial }
    (∀ st d x, (p st d x).engine.state = .unbinding ∧ (p st d x).engine.drained = d ∧
      (p st d x).intake.statusPage = some 0x40000 ∧ (p st d x).status[0]? = some (w x) ∧ (w x).writing ≠ none ∧
      (w x).waiting = x) ∧
      (p .paused true false).entriesInUse = [] ∧ (p .paused true false).sweep.atRest = true ∧
      (p .pausing true false).sweep.atRest = false :=
  ⟨fun _ _ _ => ⟨rfl, rfl, rfl, rfl, (nomatch ·), rfl⟩, by decide, by decide, by decide⟩

/-! ### Witnesses: orders -/

theorem witness_AReportIsTakenAndWritten :
    let r := order kindReport 8 2048 0
    (OrderReady (handed r ready) 31 r ∧ r.kind = kindReport ∧ aligned 8 r.p0 = true ∧ 2048 ≤ r.p1.toNat ∧
      ready.store.slots.length = 2 ∧ ready.store.slots.all (·.length = 256) = true) ∧
      (let x := order kindReport 4 2048 0
       OrderReady (handed x ready) 31 x ∧ x.kind = kindReport ∧ aligned 8 x.p0 = false) ∧
      (let x := order kindReport 8 2047 0
       OrderReady (handed x ready) 31 x ∧ x.kind = kindReport ∧ x.p1.toNat < 2048) ∧
      (doing r (.report []) ready).part.workOf 31 = some (.report []) :=
  ⟨⟨handed_ready _ _, by decide +kernel⟩, ⟨handed_ready _ _, by decide⟩, ⟨handed_ready _ _, by decide⟩, rfl⟩

theorem witness_LoadProfileBeginsItsFetch :
    let r := order kindLoadProfile 8 0 0
    let x := order kindLoadProfile 4 0 0
    let free (p : Part) : Prop := p.loading = false ∧ p.extentActive = false ∧
      (p.sweep.state = .idle ∨ p.sweep.state = .done ∨ p.sweep.state = .halted)
    (OrderReady (handed r ready) 31 r ∧ r.kind = kindLoadProfile ∧ free (handed r ready).part ∧
        free (handed r (sweepIn .halted)).part ∧ aligned 8 r.p0 = true ∧ ready.intake.barrier ≠ some 31) ∧
      (OrderReady (handed x ready) 31 x ∧ x.kind = kindLoadProfile ∧ free (handed x ready).part ∧
        aligned 8 x.p0 = false) ∧
      OrderReady (handed r (sweepIn .paused)) 31 r ∧ ¬free (handed r (sweepIn .paused)).part :=
  ⟨⟨handed_ready _ _, by decide⟩, ⟨handed_ready _ _, by decide⟩, handed_ready _ _, by decide⟩

/-- The profile block of the figures, m slots on lanes 0 to m − 1. -/
def profileBlock (m : Nat) : List Byte :=
  leBytes 4 0xABCD ++ leBytes 1 m ++ [16, 1, 2] ++ leBytes 4 20 ++ [4, 2, 1, 3] ++ wordBytes 100 ++ leBytes 2 5 ++
    [2, 2] ++ leBytes 2 64 ++ leBytes 2 0 ++ [1, 10, 2, 6] ++ leBytes 2 8 ++ leBytes 2 512 ++ leBytes 2 64 ++ reserved 6 ++
    (List.range 24).map (BitVec.ofNat 8) ++ [1, 1, 1, 1, 2] ++ List.replicate 19 1 ++ reserved 32

/-- A load whose block is being fetched. -/
def loadingPart : Part :=
  { ready with geometry := { Geometry.initial with
      load := some { entry := 31, fetching := true, unsettled := [], absentSlots := 0 } } }

theorem witness_TheProfileBlockIsInstalledOrRefused :
    let s := doing (order kindLoadProfile 8 0 0) .waiting loadingPart
    let l : Load := { entry := 31, fetching := true, unsettled := [], absentSlots := 0 }
    (s.part.geometry.load = some l ∧ l.fetching = true ∧ s.part.retry.joins = []) ∧
      (profileFail (profileBlock 6) = none ∧ profileFail (profileBlock 24) = none ∧ s.part.sweep.state = .idle) ∧
      s.part.geometry.held = [] ∧ (s.part.entry? l.entry).isSome = true ∧ profileFail (profileBlock 5) = some 2 ∧
      profileFail (profileBlock 25) = some 2 := by decide +kernel

/-- A load of entry 31, with orders held behind it, while the sweep is in a state with this halt set. -/
def loadingIn (st : SweepState) (halts : BitVec 4) (held : List Nat) (fetching : Bool) (unsettled : List Nat) : State :=
  doing (order kindLoadProfile 8 0 0) .waiting
    { sweepIn st with
      geometry := { ready.geometry with
        load := some { entry := 31, fetching, unsettled, absentSlots := 1 }, held },
      sweep := { Sweep.initial with state := st, haltSet := halts } }

theorem witness_TheProfileBlockIsInstalledOrRefused_sweep :
    (∀ st halts held, (loadingIn st halts held true []).part.geometry.load =
        some { entry := 31, fetching := true, unsettled := [], absentSlots := 1 } ∧
      (loadingIn st halts held true []).part.retry.joins = [] ∧ (loadingIn st halts held true []).part.sweep.state = st ∧
      (loadingIn st halts held true []).part.sweep.haltSet = halts ∧
      (loadingIn st halts held true []).part.geometry.held = held ∧
      (loadingIn st halts held true []).part.sweep.pass = .main) ∧
      (let p := (loadingIn .halted 0 [] true []).part
       (p.entry? 31).isSome = true ∧ p.targetSlot ≠ none ∧ p.condition ≠ .failed ∧
         p.sweep.watermark < p.stripeCount) ∧
      (1 : BitVec 4) ≠ 0 ∧ SweepState.done ≠ .idle ∧ SweepState.halted ≠ .idle ∧ profileFail (profileBlock 5) ≠ none :=
  ⟨fun _ _ _ => ⟨rfl, rfl, rfl, rfl, rfl, rfl⟩, by decide, by decide, by decide, by decide, by decide +kernel⟩

/-- The profile of the figures as its block gives it. -/
theorem test_profile_block : profileOf (profileBlock 6) = figure := by decide +kernel

theorem witness_AnExtentOrderIsCheckedAndStarts :
    let r (kind : Nat) (b c : Word) := order kind b c 0
    (OrderReady (handed (r kindWriteExtent 0 1) loadingPart) 31 (r kindWriteExtent 0 1) ∧ loadingPart.loading = true) ∧
      (OrderReady (handed (r kindReadExtent 0 1) Part.initial) 31 (r kindReadExtent 0 1) ∧
        Part.initial.loading = false ∧ Part.initial.geometry.profile = none) ∧
      (ready.loading = false ∧ ready.geometry.profile = some figure) ∧
      ((r kindReadExtent 0 0).malformed = true ∧ (r kindReadExtent 0 2049).malformed = true) ∧
      ((r kindReadExtent 1279 2).malformed = false ∧ figure.arrayBlocks < 1279 + 2) ∧
      ((r kindReadExtent 1279 1).malformed = false ∧
        (r kindReadExtent 1279 1).firstBlock + (r kindReadExtent 1279 1).blockCount ≤ figure.arrayBlocks) ∧
      ({ ready with geometry := { ready.geometry with failed := true } } : Part).condition = .failed ∧
      ready.condition ≠ .failed ∧
      (ready.locks.request (.order 31) 19 .shared).2 ≠ [] ∧
      ((ready.locks.request (.order 30) 19 .exclusive).1.request (.order 31) 19 .shared).2 = [] :=
  ⟨⟨handed_ready _ _, by decide⟩, ⟨handed_ready _ _, by decide⟩, by decide, by decide, by decide, by decide, by decide,
    by decide, by decide, by decide⟩

/-- An order whose stripe is done, as it completes: stopped or not, with lost rows or reconstructed blocks. -/
theorem witness_AnExtentOrderIsCheckedAndStarts_completes :
    let s (write : Bool) (x : Extent) := doing (order (if write then 0x02 else 0x01) 1279 1 0) (.extent x) ready
    let x (stop : Option StopCause) (lost reconstructed : Nat) : Extent :=
      { Extent.start with stripe := some 19, stop, lost, firstLost := some 1279, reconstructed }
    (∀ write x, (s write x).part.extent? 31 = some x ∧ (s write x).part.geometry.profile = some figure) ∧
      (∀ stop lost reconstructed, (x stop lost reconstructed).stop = stop ∧ (x stop lost reconstructed).lost = lost ∧
        (x stop lost reconstructed).reconstructed = reconstructed ∧ (x stop lost reconstructed).rowsDone = 0) ∧
      (orderRowBlocks figure 1279 1)[0]? = some 1279 ∧ (order 0x02 1279 1 0).isWrite = true ∧
      (order 0x01 1279 1 0).isWrite = false :=
  ⟨fun write _ => by cases write <;> exact ⟨rfl, rfl⟩, fun _ _ _ => ⟨rfl, rfl, rfl, rfl⟩, by decide, by decide,
    by decide⟩

theorem witness_MemberStateChangesTheMember :
    let r (slot action : Word) := order kindMemberState slot action 0
    (∀ slot action, OrderReady (handed (r slot action) ready) 31 (r slot action) ∧ (r slot action).kind = kindMemberState) ∧
      ready.loading = false ∧ ready.geometry.profile = some figure ∧ figure.m ≤ 6 ∧ 5 < figure.m ∧
      ((0 : Word) ≠ 1 ∧ (0 : Word) ≠ 2 ∧ (3 : Word) ≠ 1 ∧ (3 : Word) ≠ 2) ∧
      ((ready.member 5).state = .online ∧ ready.erasures ≤ 1 ∧ (ready.member 5).lane < ready.lanes.length) ∧
      (ready.member 4).state = .target ∧
      ({ ready with geometry := { ready.geometry with members := memberTable { figure with
          states := [.absent, .online, .online, .online, .target, .online] } } } : Part).member 0 =
        { Member.unmappedRecord with state := .absent } :=
  ⟨fun _ _ => ⟨handed_ready _ _, rfl⟩, by decide, by decide, by decide, by decide, by decide, by decide, by decide,
    by decide⟩

theorem witness_MemberStateChangesTheMember_otherwise :
    let r := order kindMemberState 1 1 0
    (OrderReady (handed r loadingPart) 31 r ∧ r.kind = kindMemberState ∧ loadingPart.loading = true) ∧
      OrderReady (handed r Part.initial) 31 r ∧ Part.initial.loading = false ∧ Part.initial.geometry.profile = none :=
  ⟨⟨handed_ready _ _, rfl, rfl⟩, handed_ready _ _, rfl, rfl⟩

/-- A part in a sweep state, two members ABSENT or TARGET, with a WRITE whose band is granted, waits, or is none. -/
def losing (st : SweepState) (band : Option Bool) : Part :=
  let g := { figure with states := [.absent, .online, .online, .online, .target, .online] }
  let x := anExtent true (aRow .writing .full [0] none) .idle
  { (doing (order 0x02 1000 1 0)
      (.extent { x with
        band := match band with
          | none => none
          | some granted => x.band.map fun b => { b with granted } })
      (sweepIn st)).part with
    geometry := { Geometry.initial with profile := some g, members := memberTable g } }

theorem witness_MemberStateChangesTheMember_losses :
    (∀ st band, (losing st band).sweep.state = st ∧ (losing st band).geometry.failed = false ∧
      (losing st band).geometry.profile ≠ none) ∧
      (∀ band, (losing .idle band).erasures = 2 ∧ ((losing .idle band).member 4).state = .target ∧
        ((losing .idle band).member 5).state = .online ∧ 5 < (losing .idle band).geometry.members.length ∧
        ((losing .idle band).member 5).lane < (losing .idle band).lanes.length ∧
        (losing .idle band).locks.waits (.order 31) = false ∧
        (losing .idle band).entry? 31 ≠ none ∧ ((losing .idle band).extent? 31).map (·.band.map (·.granted)) = some band ∧
        ((losing .idle band).entry? 31).map (·.record.isWrite) = some true) ∧
      ready.erasures ≤ 1 ∧ (ready.member 5).state = .online ∧ 31 < 32 := by
  refine ⟨fun _ _ => ⟨rfl, rfl, nofun⟩, fun band => ?_, by decide, by decide, by decide⟩
  rcases band with _ | _ | _ <;> decide

theorem witness_StartSweepBeginsAtItsWatermark :
    let r (origin w : Word) := order kindStartSweep origin w 0
    (∀ origin w, OrderReady (handed (r origin w) ready) 31 (r origin w) ∧ (r origin w).kind = kindStartSweep) ∧
      ready.loading = false ∧ ready.geometry.profile = some figure ∧ ready.pace.installed = some figure.pace ∧
      ready.sweep.state = .idle ∧ ready.targetSlot ≠ none ∧ ready.condition ≠ .failed ∧ ready.engine.state = .bound ∧
      ((19 : Word).toNat < figure.stripes ∧ figure.stripes ≤ (20 : Word).toNat) ∧ ready.intake.barrier ≠ some 31 ∧
      (OrderReady (handed (r 0 0) loadingPart) 31 (r 0 0) ∧ loadingPart.loading = true) ∧
      (OrderReady (handed (r 0 0) Part.initial) 31 (r 0 0) ∧ Part.initial.loading = false ∧
        Part.initial.geometry.profile = none) ∧
      ((3 : Word) ≠ 0 ∧ (3 : Word) ≠ 1 ∧ (3 : Word) ≠ 2) ∧ (sweepIn .done).sweep.state ≠ .idle ∧
      (noTarget ready).targetSlot = none ∧
      ({ ready with geometry := { ready.geometry with failed := true } } : Part).condition = .failed :=
  ⟨fun _ _ => ⟨handed_ready _ _, rfl⟩, by decide, by decide, by decide, by decide, by decide, by decide, by decide,
    by decide, by decide, ⟨handed_ready _ _, by decide⟩, ⟨handed_ready _ _, by decide⟩, by decide, by decide, by decide,
    by decide⟩

/-- A slot of a record with this state and resume point, of the figures' array unless the signature differs. -/
def aSlot (signature code resume : Nat) : List Byte :=
  leBytes 4 1 ++ leBytes 4 signature ++ [6, 16, 4, BitVec.ofNat 8 code] ++ leBytes 4 20 ++ leBytes 4 resume ++
    reserved 232 ++ leBytes 4 1

/-- A part in STARTING with slot 1 holding this and slot 0 nothing, its slots being read. -/
def startingFrom (b : List Byte) : State :=
  doing (order kindStartSweep 2 0 0) .waiting
    { ready with
      sweep := { Sweep.initial with state := .starting, startWait := some 31 },
      store := { CheckpointStore.initial with slots := [List.replicate 256 0, b], read := .reading } }

theorem witness_TheSlotReadStartsTheSweepAtItsResumePoint :
    (∀ b, (startingFrom b).part.store.read = .reading ∧ (startingFrom b).part.sweep.state = .starting ∧
      (startingFrom b).part.sweep.startWait = some 31 ∧ (startingFrom b).part.geometry.profile = some figure ∧
      ((startingFrom b).part.entry? 31).isSome = true ∧ (startingFrom b).part.targetSlot ≠ none ∧
      (startingFrom b).part.comparedTarget figure = some 4 ∧ (startingFrom b).part.isLatched .checkpointFault = false ∧
      (latched .checkpointFault (startingFrom b).part).isLatched .checkpointFault = true ∧
      (startingFrom b).part.store.write = none ∧ (noTarget (startingFrom b).part).targetSlot = none ∧
      (noTarget (startingFrom b).part).comparedTarget figure = some 4 ∧
      (startingFrom b).part.condition ≠ .failed ∧ (startingFrom b).part.engine.state = .bound) ∧
      (let b := aSlot figure.signature codeActive 19
       (startingFrom b).part.store.current = some 1 ∧ slotState b = codeActive ∧ slotSignature b = figure.signature ∧
         slotM b = figure.m ∧ slotStripes b = figure.stripes ∧ slotK b = figure.k ∧ slotTarget b = 4 ∧
         slotResume b < figure.stripes) ∧
      (let b := aSlot 0 codeActive 19
       (startingFrom b).part.store.current = some 1 ∧ slotState b = codeActive ∧ slotSignature b ≠ figure.signature) ∧
      (let b := aSlot figure.signature codeAbandoned 19
       (startingFrom b).part.store.current = some 1 ∧ slotState b = codeAbandoned) ∧
      (let b := aSlot figure.signature codeDone 19
       (startingFrom b).part.store.current = some 1 ∧ slotState b = codeDone ∧ slotState b ≠ codeAbandoned) ∧
      (slotResume (aSlot figure.signature codeActive 20) = figure.stripes ∧
        (startingFrom (aSlot figure.signature codeActive 20)).part.store.current = some 1) ∧
      (startingFrom (aSlot figure.signature 0 19)).part.store.current = none := by
  refine ⟨fun b => ⟨rfl, rfl, rfl, rfl, rfl, ?_, ?_, ?_, ?_, rfl, ?_, ?_, (nomatch ·), rfl⟩, ?_, ?_, ?_, ?_, ?_, ?_⟩
  · show ready.targetSlot ≠ none
    decide
  · show ready.comparedTarget figure = some 4
    decide
  · show ready.isLatched .checkpointFault = false
    decide
  · show (latched .checkpointFault ready).isLatched .checkpointFault = true
    decide
  · show (noTarget ready).targetSlot = none
    decide
  · show (noTarget ready).comparedTarget figure = some 4
    decide
  all_goals decide +kernel

theorem witness_PauseAndResumeSweepAreTaken :
    let r := order kindPauseSweep 0 0 0
    let x := order kindResumeSweep 0 0 0
    (∀ p, OrderReady (handed r p) 31 r ∧ OrderReady (handed x p) 31 x) ∧ r.kind = kindPauseSweep ∧
      x.kind = kindResumeSweep ∧
      (∀ st, (sweepIn st).intake.barrier ≠ some 31 ∧ (sweepIn st).pace.installed = some figure.pace) ∧
      (sweepIn .sweeping).sweep.inPass = true ∧ (sweepIn .retrying).sweep.inPass = true ∧
      (let p := sweepIn .paused
       p.sweep.state = .paused ∧ p.sweep.pass = .main ∧ p.sweep.watermark < p.stripeCount ∧
         p.engine.state ≠ .unbinding ∧ p.retry.joins = [] ∧
         ({ p with engine := { state := .unbinding, drained := false } } : Part).engine.state = .unbinding) ∧
      (sweepIn .pausing).sweep.inPass = false ∧ (sweepIn .pausing).sweep.state ≠ .paused :=
  ⟨fun _ => ⟨handed_ready _ _, handed_ready _ _⟩, rfl, rfl, fun _ => ⟨(nomatch ·), rfl⟩, by decide, by decide, by decide,
    by decide, by decide⟩

theorem witness_AbandonSweepEntersAbandoning :
    let r := order kindAbandonSweep 0 0 0
    (∀ p, OrderReady (handed r p) 31 r) ∧ r.kind = kindAbandonSweep ∧
      (∀ st ∈ [SweepState.sweeping, .retrying, .pausing, .paused, .halted], (sweepIn st).sweep.state.abandonable = true ∧
        (sweepIn st).isLatched .checkpointFault = false ∧ (sweepIn st).geometry.profile ≠ none ∧
        (sweepIn st).store.write = none) ∧
      (let p : Part := { sweepIn .sweeping with
         sweep := { Sweep.initial with state := .sweeping, window := [none, none, none, some aContext] } }
       3 < 4 ∧ p.context? 3 = some aContext ∧ aContext.band = none ∧ aContext.joining = false) ∧
      ((storing .paused).store.write ≠ none ∧ (storing .paused).sweep.state.abandonable = true ∧
        (storing .paused).isLatched .checkpointFault = false) ∧
      (bandOf aBand).context? 0 = some { aContext with nextRow := 1, band := some aBand } ∧
      ((latched .checkpointFault (sweepIn .sweeping)).isLatched .checkpointFault = true ∧
        (latched .checkpointFault (bandOf aBand)).isLatched .checkpointFault = true ∧
        (latched .checkpointFault (bandOf aBand)).sweep.state.abandonable = true ∧
        (latched .checkpointFault (bandOf aBand)).store.write = none) ∧
      (let a : AbandonWait := { entry := 31, watermark := 9, wrote := none }
       let q := latched .checkpointFault (doing r .waiting { sweepIn .abandoning with
         sweep := { Sweep.initial with state := .abandoning, abandonWait := some a } }).part
       q.sweep.state = .abandoning ∧ q.windowEmpty = true ∧ q.sweep.abandonWait = some a ∧ a.wrote = none ∧
         q.store.write = none ∧ q.isLatched .checkpointFault = true ∧ (q.entry? a.entry).isSome = true) ∧
      (sweepIn .idle).sweep.state = .idle ∧
      ∀ st ∈ [SweepState.starting, .halting, .abandoning, .finishing, .done],
        (sweepIn st).sweep.state.abandonable = false ∧ (sweepIn st).sweep.state ≠ .idle :=
  ⟨fun _ => handed_ready _ _, rfl, by decide, by decide, ⟨by simp [storing, beginStoreWrite, CheckpointStore.takeTo,
    sweepIn, ready, Part.onStore, recordedState], by decide, by decide⟩, rfl, by decide, by decide, by decide, by decide⟩

/-- The parameter 0 of a SET PACE of the figures' set with this floor. -/
def paceWord (floor : Nat) : Word :=
  BitVec.ofNat 64 (1 + floor * 2 ^ 8 + 512 * 2 ^ 24 + 2 * 2 ^ 40 + 6 * 2 ^ 48 + 10 * 2 ^ 56)

/-- A PAUSED sweep with a context that holds its reservation, one without and a settled one, in each pass, below S and at
it, the Retry List empty and not, and with CHECKPOINT_FAULT latched and not. -/
theorem witness_PauseAndResumeSweepAreTaken_contexts :
    let waiting : Context := { aContext with phase := .lockWait, reserved := true }
    let window : List (Option Context) :=
      [some waiting, some { waiting with stripe := 1, reserved := false },
       some { waiting with stripe := 2, settled := true, reserved := false }, none]
    let p (pass : Pass) (w : Nat) (list : RetryList) (window : List (Option Context)) : Part :=
      { ready with retry := list,
                   sweep := { Sweep.initial with state := .paused, pass, watermark := w, next := 20, window } }
    (∀ pass w list window, (p pass w list window).sweep.state = .paused ∧ (p pass w list window).sweep.pass = pass ∧
      (p pass w list window).sweep.watermark = w ∧ (p pass w list window).retry = list ∧
      (p pass w list window).pace.installed = some figure.pace ∧ (p pass w list window).pace.next = none ∧
      (p pass w list window).engine.state ≠ .unbinding ∧ (p pass w list window).geometry.profile ≠ none ∧
      (p pass w list window).store.write = none ∧ (p pass w list window).stripeCount = 20) ∧
      (let q := p .main 0 .initial window
       (q.context? 0).map (fun c => (c.reserved, c.settled)) = some (true, false) ∧
         (q.context? 1).map (fun c => (c.reserved, c.settled)) = some (false, false) ∧
         (q.context? 2).map (·.settled) = some true ∧ q.locks.holds (.context 0) = false ∧ q.windowEmpty = false) ∧
      (p .retry 20 .initial (List.replicate 4 none)).windowEmpty = true ∧ RetryList.initial.isEmpty = true ∧
      aRetry.isEmpty = false ∧ RetryList.initial.joins = [] ∧
      (p .main 20 .initial window).isLatched .checkpointFault = false ∧
      (latched .checkpointFault (p .main 20 .initial window)).isLatched .checkpointFault = true :=
  ⟨fun _ _ _ _ => ⟨rfl, rfl, rfl, rfl, rfl, rfl, (nomatch ·), (nomatch ·), rfl, rfl⟩, by decide, by decide, by decide,
    by decide, by decide, by decide, by decide⟩

theorem witness_SetPaceIsInstalledOrWaits :
    let r (floor : Nat) (restart : Word) := order kindSetPace (paceWord floor) 64 restart
    (∀ floor restart p, OrderReady (handed (r floor restart) p) 31 (r floor restart) ∧
      (r floor restart).kind = kindSetPace) ∧
      ready.geometry.profile = some figure ∧ ready.loading = false ∧
      paceFieldsFail (setPaceFields (paceWord 0) 64) = some 20 ∧
      paceFieldsFail (setPaceFields (paceWord 1) 64) = none ∧ paceFieldsFail (setPaceFields (paceWord 512) 64) = none ∧
      setPaceRestart 0 = false ∧ setPaceRestart 1 = true ∧ (sweepIn .sweeping).pace.timer ≠ none ∧
      ready.pace.timer = none ∧ Part.initial.geometry.profile = none ∧
      (loadingIn .sweeping 0 [] true []).part.geometry.profile ≠ none ∧
      (loadingIn .sweeping 0 [] true []).part.loading = true :=
  ⟨fun _ _ _ => ⟨handed_ready _ _, rfl⟩, by decide, by decide, by decide, by decide, by decide, by decide, by decide,
    by decide, by decide, by decide, by decide, by decide⟩

theorem witness_CheckpointNowBeginsOrJoinsAWrite :
    let r := order kindCheckpointNow 0 0 0
    (∀ p, OrderReady (handed r p) 31 r) ∧ r.kind = kindCheckpointNow ∧
      (∀ st ∈ [SweepState.sweeping, .done], st ≠ .idle ∧ st ≠ .starting ∧ (sweepIn st).sweep.state = st ∧
        (sweepIn st).geometry.profile = some figure ∧ (sweepIn st).intake.barrier ≠ some 31 ∧
        (sweepIn st).isLatched .checkpointFault = false ∧ (sweepIn st).store.write = none) ∧
      ((storing .paused).store.write ≠ none ∧ (storing .paused).sweep.state = .paused ∧
        (storing .paused).isLatched .checkpointFault = false) ∧
      (latched .checkpointFault (sweepIn .paused)).isLatched .checkpointFault = true ∧
      (sweepIn .starting).sweep.state = .starting ∧ Part.initial.geometry.profile = none :=
  ⟨fun _ => handed_ready _ _, rfl, by decide, ⟨by simp [storing, beginStoreWrite, CheckpointStore.takeTo, sweepIn, ready,
    Part.onStore, recordedState], rfl, by decide⟩, by decide, by decide, by decide⟩

theorem witness_RetryAreasBarriersAndUnknownKindsAreTaken :
    let r (address capacity : Word) := order kindSetRetryArea address capacity 0
    let b := order kindBarrier 0 0 0
    let u := order 0x32 0 0 0
    (∀ address capacity p, OrderReady (handed (r address capacity) p) 31 (r address capacity)) ∧
      ((65535 : Word).toNat ≤ 65535 ∧ (16 : Word).toNat % 16 = 0) ∧ (0 : Word).toNat = 0 ∧
      (ready.retry.extensionInUse = false ∧ ready.retry.refilling = false) ∧ joining.retry.extensionInUse = true ∧
      (¬(65536 : Word).toNat ≤ 65535 ∧ (1 : Word).toNat ≠ 0 ∧ (15 : Word).toNat % 16 ≠ 0) ∧
      (let s := handed b { ready with intake := { ready.intake with barrier := some 31 } }
       OrderReady s 31 b ∧ b.kind = kindBarrier ∧ s.part.intake.barrier = some 31 ∧ s.part.entriesInUse = [31]) ∧
      (let s : State := still { ready with
         intake := { ready.intake with barrier := some 1 },
         table := { entries := [some { record := b, work := .waiting }, some { record := b, work := .handed }],
                    handed := [1] } }
       OrderReady s 1 b ∧ s.part.intake.barrier = some 1 ∧ s.part.entriesInUse ≠ [1]) ∧
      OrderReady (handed u ready) 31 u ∧ u.kind ∉ orderKinds :=
  ⟨fun _ _ _ => handed_ready _ _, by decide, by decide, by decide, by decide, by decide,
    ⟨handed_ready _ _, by decide, by decide, by decide⟩, ⟨⟨rfl, rfl⟩, by decide, by decide⟩, handed_ready _ _, by decide⟩

/-! ### Witnesses: the lanes -/

theorem witness_AnIssuedRequestTakesTheLowestFreeTag :
    let p (q : LaneRequest) := lane0 [.issued (aRead 0 1) []] [q] [aRead 0 1] ready
    ready.geometry.profile = some figure ∧
      (let q := aWrite 0
       ((p q).lane 0).canIssue figure.depth = true ∧
         ((p q).lane 0).issuer .sweepFirst (p q).condition = some .sweep ∧
         ((p q).lane 0).issuer figure.arbiter (p q).condition = some .order ∧
         ((p q).lane 0).head .order = some (aRead 0 1) ∧ (aRead 0 1).write = false) ∧
      (let r := lane0 [] [aWrite 0] [] ready
       (r.lane 0).canIssue figure.depth = true ∧ (r.lane 0).issuer figure.arbiter r.condition = some .sweep ∧
         (r.lane 0).head .sweep = some (aWrite 0) ∧ (aWrite 0).write = true ∧
         (∀ f ∈ (aWrite 0).frames, (strikeFrames [1] (r.modLane 0 fun l => l.take .sweep)).parityError f = false) ∧
         (aWrite 0).frames.filter (strikeFrames [0] (r.modLane 0 fun l => l.take .sweep)).parityError ≠ []) := by
  decide

/-- A part whose lane 0 has the request on tag 15. -/
def onTag (t : Tag) : Part := lane0 (List.replicate 15 .free ++ [t]) [] [] ready

theorem witness_AGoodAnswerFreesItsTag :
    (∀ t, ((onTag t).lane 0).takesAnswers = true ∧ (onTag t).tag 0 15 = t) ∧ (aWrite 0).write = true ∧
      ((aRead 0 2).write = false ∧ [full 1, full 2].length = (aRead 0 2).count ∧ [full 1].length ≠ (aRead 0 2).count) ∧
      (onTag .free).tag 0 15 = .free ∧ (ready.lane 6).takesAnswers = false :=
  ⟨fun _ => ⟨rfl, rfl⟩, by decide, ⟨rfl, rfl, by decide⟩, by decide, by decide⟩

/-- A READ of two blocks of an order's rows, delivered with and without an upset. -/
theorem witness_AGoodAnswerFreesItsTag_delivers :
    let p := (banding false (aRow .direct .full [0] none) .idle).part
    let q := { aRead 0 2 with row := 8 }
    [full 1, full 2].length ≤ q.frames.length ∧ q.frames.Nodup ∧
      (∀ f ∈ q.frames, f < p.buffer.frames.length ∧ (p.frame f).state ≠ .unfit) ∧
      q.slot < p.geometry.members.length ∧ (p.member q.slot).trailers ≤ 65535 ∧
      (∃ v, p.bandView 31 = some v ∧ q.owner = .orderBand 31) ∧
      ((List.range 2).filter fun i => [17].contains (q.frames.getD i 0)) = [1] ∧
      ((List.range 2).filter fun i => !([17] : List Nat).contains (q.frames.getD i 0)) = [0] ∧
      ((List.range 2).filter fun i => ([] : List Nat).contains (q.frames.getD i 0)) = [] :=
  ⟨by decide, by decide, by decide, by decide, by decide, ⟨_, rfl, rfl⟩, by decide, by decide, by decide⟩

theorem witness_MediumAndNotReadyAnswersAreTaken :
    (∀ q sent, ((onTag (.issued q sent)).lane 0).takesAnswers = true ∧
      (onTag (.issued q sent)).tag 0 15 = .issued q sent ∧ (onTag (.issued q sent)).geometry.profile = some figure ∧
      (onTag (.issued q sent)).lanes.length = 24) ∧
      (let q := aRead 0 2
       q.lane < 24 ∧ q.write = false ∧ (ready.member q.slot).state ≠ .unmapped ∧
         ([] : List Sector).length = min 0 (q.count - 1) ∧ 0 + 1 < q.count ∧
         [full 1].length = min 2 (q.count - 1) ∧ q.count ≤ 1 + 1 ∧ [full 1].length ≠ min 0 (q.count - 1) ∧
         q.retries < figure.requestRetries ∧ figure.requestRetries ≤ ({ q with retries := 1 }).retries) ∧
      (let q := { aWrite 5 with lane := 5, retries := 1 }
       q.lane < 24 ∧ q.write = true ∧ q.mend = false ∧ ({ q with mend := true }).mend = true ∧
         (ready.member q.slot).state ≠ .unmapped ∧ figure.requestRetries ≤ q.retries ∧ q.owner = .sweepBand 0) ∧
      (bandOf aBand).context? 0 = some { aContext with nextRow := 1, band := some aBand } :=
  ⟨fun _ _ => ⟨rfl, rfl, rfl, rfl⟩,
    ⟨by decide, rfl, by decide, rfl, by decide, rfl, by decide, by decide, by decide, by decide⟩, by decide, rfl⟩

/-- Both kinds of owner with a band that takes results. -/
theorem witness_MediumAndNotReadyAnswersAreTaken_results :
    (bandOf aBand).sweepBand? 0 = some aBand ∧
      ∃ v, (banding false (aRow .direct .full [0] none) .idle).part.bandView 31 = some v := ⟨rfl, _, rfl⟩

theorem witness_ATimeoutQuarantinesItsTag :
    let q := { aWrite 0 with retries := 1 }
    let p := (onTag (.issued q [])).modMember 0 fun m => { m with consecutive := 2 }
    p.tag 0 15 = .issued q [] ∧ p.geometry.profile = some figure ∧ (p.member q.slot).state ≠ .unmapped ∧
      figure.absence ≤ (p.member q.slot).consecutive + 1 ∧ figure.requestRetries ≤ q.retries ∧ q.write = true ∧
      q.mend = false ∧ q.lane < p.lanes.length ∧ (aRead 0 2).retries < figure.requestRetries ∧
      (aRead 0 2).write = false ∧ ¬figure.absence ≤ (ready.member 0).consecutive + 1 ∧
      (∀ t ∈ [Tag.free, .quarantined], ∀ q sent, (onTag t).tag 0 15 ≠ .issued q sent) := by
  refine ⟨by decide, by decide, by decide, by decide, by decide, by decide, by decide, by decide, by decide, by decide,
    by decide, ?_⟩
  intro t ht q sent h
  simp only [List.mem_cons, List.not_mem_nil, or_false] at ht
  rcases ht with rfl | rfl <;> cases h

/-- Lane 0 with this many quarantined tags and one more as given, before and in RECLAIMING, and a lane in another state. -/
theorem witness_ATimeoutQuarantinesItsTag_reclaim :
    let lane (st : LaneState) (n : Nat) (t : Tag) : Lane :=
      { Lane.initial with state := st, tags := List.replicate n .quarantined ++ t :: List.replicate (15 - n) .free }
    0 < ready.lanes.length ∧ (lane .opened 7 .free).quarantined < 8 ∧ (lane .reclaiming 7 .free).quarantined < 8 ∧
      (8 ≤ (lane .opened 8 (.issued (aRead 0 2) [])).quarantined ∧
        0 < (lane .opened 8 (.issued (aRead 0 2) [])).outstanding) ∧
      (8 ≤ (lane .reclaiming 8 .free).quarantined ∧ (lane .reclaiming 8 .free).outstanding = 0) ∧
      (ready.lane 6).state ≠ .opened ∧ (ready.lane 6).state ≠ .reclaiming := by decide

/-- Lane 0 in a state with this many flushes pending. -/
def flushing (st : LaneState) (flushes : Nat) (p : Part) : Part := p.modLane 0 fun l => { l with state := st, flushes }

theorem witness_FlushedFreesTheQuarantinedTags :
    (let p := flushing .flushingReclaim 1 (onTag .quarantined)
     (p.lane 0).state ≠ .unmapped ∧ (p.lane 0).flushes = 1 ∧ p.loadAwaits 0 = false ∧
       (p.lane 0).state = .flushingReclaim ∧ p.slotOfLane 0 = some 0) ∧
      ((flushing .flushingReclaim 2 ready).lane 0).flushes = 2 ∧ (ready.lane 0).flushes = 0 ∧
      (ready.lane 6).state = .unmapped ∧
      (let l : Load := { entry := 31, fetching := false, unsettled := [0], absentSlots := 0 }
       let p : Part := flushing .flushingLoad 1 { ready with geometry := { ready.geometry with load := some l } }
       p.loadAwaits 0 = true ∧ p.slotOfLane 0 = some 0 ∧ p.geometry.held = [] ∧ p.geometry.load = some l ∧
         (p.lane 0).flushes = 1 ∧ l.unsettled.filter (· ≠ 0) = []) ∧
      (let p := flushing .flushingLoad 1 (loadingIn .idle 0 [3] false [0]).part
       p.loadAwaits 0 = true ∧ p.slotOfLane 0 = some 0 ∧ p.sweep.state ≠ .halted ∧ (p.entry? 31).isSome = true ∧
         (p.member 0).state ≠ .absent) ∧
      [0, 5].filter (· ≠ 0) ≠ [] ∧ ((flushing .closed 1 ready).lane 0).state = .closed := by decide

/-! ### Witnesses: bands -/

/-- A READ waiting with its band at the head of the order-pool queue, needing `need` frames. -/
def waitingBand (need : Nat) : State :=
  doing (order 0x01 1000 1 0)
    (.extent { anExtent false (aRow .direct .full [0] none) .idle with
      band := some { granted := false, rows := [aRow .direct .full [0] none], places := [], dma := .idle } })
    { ready with buffer := { ready.buffer with queue := [(31, need)] } }

theorem witness_TheQueueHeadIsGrantedItsWholeNeed :
    (∀ need, (waitingBand need).part.geometry.profile = some figure ∧
      (waitingBand need).part.buffer.queue = [(31, need)] ∧ ∃ v, (waitingBand need).part.bandView 31 = some v) ∧
      16 ≤ (waitingBand 16).part.freeFrames .order ∧ (waitingBand 17).part.freeFrames .order < 17 := by
  refine ⟨fun _ => ⟨rfl, rfl, _, rfl⟩, by decide, by decide⟩

/-- A READ and a WRITE at the head of the queue, and a READ band in flight, their rows in order. -/
theorem witness_TheQueueHeadIsGrantedItsWholeNeed_rows :
    (∃ v, (waitingBand 16).part.bandView 31 = some v ∧ v.record.isWrite = false ∧ RowsOrdered v.band.rows) ∧
      (let s := doing (order 0x02 1000 1 0)
         (.extent { anExtent true (aRow .gathering .full [0] none) .idle with
           band := some { granted := false, rows := [aRow .gathering .full [0] none], places := [], dma := .idle } })
         { ready with buffer := { ready.buffer with queue := [(31, 12)] } }
       ∃ v, s.part.bandView 31 = some v ∧ v.record.isWrite = true ∧ s.part.buffer.queue = [(31, 12)] ∧
         12 ≤ s.part.freeFrames .order) ∧
      ([0, 1, 3] : List Nat).Pairwise (· < ·) ∧
      ∃ v, (banding false (aRow .direct .full [0] none) .idle).part.bandView 31 = some v ∧ RowsOrdered v.band.rows ∧
        v.band.granted = true ∧ v.record.isWrite = false :=
  ⟨⟨_, rfl, by decide, List.pairwise_singleton _ _⟩, ⟨_, rfl, by decide, rfl, by decide⟩, by decide, _, rfl,
    List.pairwise_singleton _ _, rfl, by decide⟩

/-- A WRITE in flight whose band's rows stand in order. -/
theorem witness_EveryStepKeepsTheFollowingLaws_bands :
    let s := banding true (aRow .gathering .full [0] none) .idle
    BandLaw s.part ∧ (s.part.extent? 31).isSome = true ∧ ∃ t, step (queued s.part (.alertWrite 0)) = .next t := by
  refine ⟨fun e x hx => ?_, by decide, _, rfl⟩
  obtain ⟨a, ha, hw⟩ := extent?_eq_some.mp hx
  have held : some a ∈ List.replicate 31 none ++
      [some { record := order 0x02 1000 1 0, work := .extent (anExtent true (aRow .gathering .full [0] none) .idle) }] := by
    simp only [Part.entry?, List.getD_eq_getElem?_getD, Option.getD_eq_iff, reduceCtorEq, and_false, or_false] at ha
    exact List.mem_of_getElem? ha
  simp only [List.mem_append, List.mem_replicate, List.mem_singleton, reduceCtorEq, and_false, false_or,
    Option.some.injEq] at held
  subst held
  cases hw
  exact ⟨.nil, fun b hb => by cases hb; exact List.pairwise_singleton _ _⟩

/-- The one block moved by the bands of these witnesses. -/
def aMove : BlockMove := { row := 8, slot := 0, pieces := [{ address := 0x80000, length := 4096 }] }

theorem witness_HostTransfersOfABandEnd :
    (let s := banding true (aRow .gathering .full [0] none) (.gather [aMove])
     ∃ v, s.part.bandView 31 = some v ∧ v.band.dma = .gather [aMove] ∧ [full 1].length = [aMove].length ∧
       ([aMove].filterMap (moveFrame v .new)) = [22] ∧ [22].Nodup ∧ ([aMove])[0]? = some aMove ∧
       ([full 1])[0]? = some (full 1) ∧ 22 < s.part.buffer.frames.length ∧ (s.part.frame 22).state ≠ .unfit) ∧
      let s := banding false (aRow .ready .full [0] none) (.delivery [aMove])
      ∃ v, s.part.bandView 31 = some v ∧ v.band.dma = .delivery [aMove] ∧
        ∀ m ∈ [aMove], ∀ f, moveFrame v .old m = some f → (strikeFrames [17] s.part).parityError f = false := by
  refine ⟨⟨_, rfl, rfl, rfl, by decide, by decide, rfl, rfl, by decide, by decide⟩, _, rfl, rfl, ?_⟩
  intro m hm f hf
  cases List.mem_singleton.mp hm
  cases hf
  decide

/-- The part with both parities of stripe 15 ABSENT. -/
def noParity (p : Part) : Part :=
  (p.modMember 2 fun m => { m with state := .absent }).modMember 3 fun m => { m with state := .absent }

/-- Gathered rows with and without parity in use, a delivery into a frame struck and not, and a band with a row ready. -/
theorem witness_HostTransfersOfABandEnd_rows :
    (∃ v, (banding true (aRow .gathering .full [0] none) .idle).part.bandView 31 = some v ∧ RowsOrdered v.band.rows ∧
      parityInUse ready v ≠ [] ∧ parityInUse (noParity ready) v = []) ∧
      (∃ v, (banding false (aRow .ready .full [0] none) .idle).part.bandView 31 = some v ∧ v.band.granted = true ∧
        v.band.dma = .idle ∧ (∀ w ∈ v.band.rows, w.phase = .ready) ∧
        (v.band.rows.filter fun w => w.phase = .ready) ≠ [] ∧ v.ext.stop = none ∧
        frameAt v.band.places 8 0 .old = some 16) ∧
      ((strikeFrames [16] (bandFrames ready)).parityError 16 = true ∧ (bandFrames ready).parityError 16 = false) ∧
      6 ≤ figure.m ∧ 8 < figure.k :=
  ⟨⟨_, rfl, List.pairwise_singleton _ _, by decide, by decide⟩,
    ⟨_, rfl, rfl, rfl, by decide, by decide, rfl, by decide⟩, by decide, by decide, by decide⟩

/-- A band whose row is done with, its order stopped, with rows left, at its last stripe and before it. -/
theorem witness_HostTransfersOfABandEnd_ends :
    let s (blocks : Word) (stop : Option StopCause) (left : List Nat) (lost reconstructed : Nat) :=
      doing (order 0x01 1000 blocks 0)
        (.extent { anExtent false (aRow (.done true) .full [0] none) .idle with
          stop, rowsLeft := left, lost, reconstructed })
        (bandFrames ready)
    (∀ blocks stop left lost reconstructed, ∃ v, (s blocks stop left lost reconstructed).part.bandView 31 = some v ∧
      v.band.granted = true ∧ v.band.dma = .idle ∧ (∀ w ∈ v.band.rows, ∃ c, w.phase = .done c) ∧
      v.ext.stop = stop ∧ v.ext.rowsLeft = left ∧ v.ext.lost = lost ∧ v.ext.reconstructed = reconstructed) ∧
      (∀ blocks stop left lost reconstructed,
        (s blocks stop left lost reconstructed).part.outstanding (.orderBand 31) = []) ∧
      (figure.stripeOf (1000 + 1 - 1) ≤ 15 ∧ ¬figure.stripeOf (1000 + 24 + 1 - 1) ≤ 15) ∧
      (orderRowBlocks figure 1000 25)[1]? ≠ none ∧
      ((ready.locks.release (.order 31)).1.request (.order 31) 16 .shared).2 ≠ [] ∧
      (((ready.locks.request (.order 30) 16 .exclusive).1.release (.order 31)).1.request (.order 31) 16 .shared).2 = [] := by
  refine ⟨fun _ _ _ _ _ => ⟨_, rfl, rfl, rfl, ?_, rfl, rfl, rfl, rfl⟩, fun _ _ _ _ _ => rfl, by decide, by decide, by decide,
    by decide⟩
  intro w hw
  cases List.mem_singleton.mp hw
  exact ⟨true, rfl⟩

/-- A part whose place 0 holds stripe 0's context with its band rebuilding. -/
def rebuilding : Part := bandOf aBand

theorem witness_AReconstructionJobPlacesTheWantedBlocks :
    (let j : RowJob := { erased := [4], wanted := [4], parity := [] }
     let s := banding false (aRow .job .full [4] (some j)) .idle
     ∃ v w, jobRow s.part 31 8 false [] = some (v, w, j) ∧
       (strikeFrames [31] s.part).jobErrors
         (framesOf v.band.places 8 .old (reconstructionInputs v.g v.stripe j.erased))
         (framesOf v.band.places 8 .old j.wanted) [31] = [] ∧
       (∃ r, reconstructRow ((strikeFrames [31] s.part).rowView v.g v.stripe v.band.places 8 j.erased) = some r) ∧
       (strikeFrames [16] s.part).jobErrors
         (framesOf v.band.places 8 .old (reconstructionInputs v.g v.stripe j.erased))
         (framesOf v.band.places 8 .old j.wanted) [16] ≠ []) ∧
      rebuilding.geometry.profile = some figure ∧
      ∃ c j, rebuilding.context? 0 = some c ∧ c.band = some aBand ∧ aBand.jobs.find? (fun x => x.row = 0) = some j ∧
        rebuilding.jobErrors (framesOf aBand.places 0 .old (reconstructionInputs figure c.stripe j.erased))
          (sweepOutputs aBand 0 j.wanted) [] = [] ∧
        (strikeFrames [1] rebuilding).jobErrors (framesOf aBand.places 0 .old (reconstructionInputs figure c.stripe j.erased))
          (sweepOutputs aBand 0 j.wanted) [1] ≠ [] ∧
        ∃ r, reconstructRow (rebuilding.rowView figure c.stripe aBand.places 0 j.erased) = some r :=
  ⟨⟨_, _, rfl, by decide, ⟨_, rfl⟩, by decide⟩, rfl, _, _, rfl, rfl, rfl, by decide, by decide, _, rfl⟩

/-- Bands at their write gate and discarded, and an output found with an error. -/
theorem witness_AReconstructionJobPlacesTheWantedBlocks_band :
    (∀ b, (bandOf b).geometry.profile = some figure ∧
      (bandOf b).context? 0 = some { aContext with nextRow := 1, band := some b } ∧
      (bandOf b).outstanding (.sweepBand 0) = [] ∧ (bandOf b).sweep.state = .sweeping) ∧
      (aBand.gateFrames.filter rebuilding.parityError = [] ∧
        aBand.gateFrames.filter (strikeFrames [5] rebuilding).parityError ≠ []) ∧
      ([0, 1, 3] : List Nat).Pairwise (· < ·) ∧ ({ aBand with stage := .discarded }).stage = .discarded ∧
      (31 < ready.buffer.frames.length ∧ 31 ∈ [30, 31] ∧ 29 ∉ [30, 31]) :=
  ⟨fun _ => ⟨rfl, rfl, rfl, rfl⟩, by decide, by decide, rfl, by decide⟩

theorem witness_ADeltaJobPlacesTheNewParity :
    let j (erased : List Nat) : RowJob := { erased, wanted := [], parity := [2, 3] }
    let s (erased : List Nat) := banding true (aRow .job .delta [0] (some (j erased))) .idle
    (∃ v w, jobRow (s []).part 31 8 true [.delta] = some (v, w, j []) ∧ (j []).erased = [] ∧
      (strikeFrames [17] (s []).part).jobErrors
        (framesOf v.band.places 8 .old (w.want ++ [2, 3]) ++ framesOf v.band.places 8 .new w.want)
        (framesOf v.band.places 8 .new [2, 3]) [17] = [] ∧
      (strikeFrames [18] (s []).part).jobErrors
        (framesOf v.band.places 8 .old (w.want ++ [2, 3]) ++ framesOf v.band.places 8 .new w.want)
        (framesOf v.band.places 8 .new [2, 3]) [18] ≠ []) ∧
      ∃ v w, jobRow (s [2]).part 31 8 true [.delta] = some (v, w, j [2]) ∧ (j [2]).erased ≠ [] :=
  ⟨⟨_, _, rfl, rfl, by decide, by decide⟩, _, _, rfl, by decide⟩

/-- A row at its write gate, with an error in a frame of its writes and without. -/
theorem witness_ADeltaJobPlacesTheNewParity_writes :
    let w := aRow .job .delta [0] (some { erased := [], wanted := [], parity := [2, 3] })
    let p := (banding true w .idle).part
    ∃ v, p.bandView 31 = some v ∧ v.band.row? 8 = some w ∧ RowsOrdered v.band.rows ∧ v.band.granted = true ∧
      v.record.isWrite = true ∧ writesOf p w = [(0, .new), (2, .new), (3, .new)] ∧
      ((writesOf p w).flatMap fun x => (frameAt v.band.places w.row x.1 x.2).toList) = [22, 24, 25] ∧
      [22, 24, 25].filter p.parityError = [] ∧ [22, 24, 25].filter (strikeFrames [24] p).parityError ≠ [] :=
  ⟨_, rfl, rfl, List.pairwise_singleton _ _, rfl, by decide, by decide, by decide, by decide, by decide⟩

theorem witness_AFullRowJobPlacesTheNewParity :
    let j (erased wanted : List Nat) : RowJob := { erased, wanted, parity := [2, 3] }
    let s (m : Method) (j : RowJob) := banding true (aRow .job m [0] (some j)) .idle
    (∃ v w, jobRow (s .full (j [] [])).part 31 8 true [.full, .fullNoReads] = some (v, w, j [] []) ∧
      (s .full (j [] [])).part.jobErrors
        (framesOf v.band.places 8 .new w.want ++ framesOf v.band.places 8 .old (unwritten v w))
        (framesOf v.band.places 8 .new [2, 3]) [] = [] ∧
      (strikeFrames [24] (s .full (j [] [])).part).jobErrors
        (framesOf v.band.places 8 .new w.want ++ framesOf v.band.places 8 .old (unwritten v w))
        (framesOf v.band.places 8 .new [2, 3]) [24] ≠ []) ∧
      (∃ v w, jobRow (s .fullReconstruction (j [1, 4] [1, 4])).part 31 8 true [.fullReconstruction] =
          some (v, w, j [1, 4] [1, 4]) ∧ [1, 4].length < 3 ∧
        (s .fullReconstruction (j [1, 4] [1, 4])).part.jobErrors
          (framesOf v.band.places 8 .old (reconstructionInputs v.g v.stripe [1, 4]) ++
            framesOf v.band.places 8 .new w.want ++ framesOf v.band.places 8 .old (without (unwritten v w) [1, 4]))
          (framesOf v.band.places 8 .new [2, 3] ++ framesOf v.band.places 8 .old [1, 4]) [] = [] ∧
        (strikeFrames [17] (s .fullReconstruction (j [1, 4] [1, 4])).part).jobErrors
          (framesOf v.band.places 8 .old (reconstructionInputs v.g v.stripe [1, 4]) ++
            framesOf v.band.places 8 .new w.want ++ framesOf v.band.places 8 .old (without (unwritten v w) [1, 4]))
          (framesOf v.band.places 8 .new [2, 3] ++ framesOf v.band.places 8 .old [1, 4]) [17] ≠ [] ∧
        ∃ r, reconstructRow ((s .fullReconstruction (j [1, 4] [1, 4])).part.rowView v.g v.stripe v.band.places 8 [1, 4]) =
          some r) ∧
      ∃ v w, jobRow (s .fullReconstruction (j [1, 4, 5] [1, 4, 5])).part 31 8 true [.fullReconstruction] =
          some (v, w, j [1, 4, 5] [1, 4, 5]) ∧ 3 ≤ [1, 4, 5].length :=
  ⟨⟨_, _, rfl, by decide, by decide⟩, ⟨_, _, rfl, by decide, by decide, by decide, _, rfl⟩, _, _, rfl, by decide⟩

/-- Rows with all their reads in, with parity in use and without. -/
theorem witness_AFullRowJobPlacesTheNewParity_rows :
    let w := { aRow .reading .delta [0] none with results := [(0, .good)] }
    ∃ v, (banding true w .idle).part.bandView 31 = some v ∧ RowsOrdered v.band.rows ∧ parityInUse ready v ≠ [] ∧
      parityInUse (noParity ready) v = [] ∧ w ∈ v.band.rows ∧ ∀ x ∈ w.asked, w.result? x = some .good :=
  ⟨_, rfl, List.pairwise_singleton _ _, by decide, by decide, List.mem_singleton.mpr rfl, by decide⟩

/-! ### Witnesses: the sweep's own steps -/

theorem witness_AContextLaunchesInTheLowestFreePlace :
    (let p : Part := { sweepIn .sweeping with sweep := { Sweep.initial with state := .sweeping, next := 19 } }
     lowestIndex Option.isNone p.sweep.window = some 0 ∧ p.mayLaunch = true ∧ p.sweep.state = .sweeping ∧
       p.sweep.next < p.stripeCount) ∧
      let p : Part := { sweepIn .retrying with
        sweep := { Sweep.initial with state := .retrying, window := [some aContext, none, none, none] },
        retry := { RetryList.initial with
          onChip := [{ stripe := 1, attempt := 2, reason := .timeout, taken := some 0 },
                     { stripe := 7, attempt := 2, reason := .timeout, taken := none }] } }
      lowestIndex Option.isNone p.sweep.window = some 1 ∧ p.mayLaunch = true ∧ p.sweep.state = .retrying ∧
        (takeOldest 1 p.retry.onChip).map (·.1.stripe) = some 7 := by decide

/-- A part whose place 0 holds a BANDING context at a row, with a remaining budget. -/
def launchable (nextRow remaining : Nat) : Part :=
  { sweepIn .sweeping with
    sweep := { Sweep.initial with state := .sweeping, next := 1,
                                  window := some { aContext with nextRow } :: List.replicate 3 none },
    pace := { (sweepIn .sweeping).pace with remaining } }

theorem witness_ABandLaunchesWithTheRowsThatFit :
    (∀ row remaining, (launchable row remaining).geometry.profile = some figure ∧
      (launchable row remaining).context? 0 = some { aContext with nextRow := row } ∧
      (launchable row remaining).sweep.inPass = true ∧ aContext.phase = .banding ∧ aContext.band = none) ∧
      15 < figure.k ∧
      (let p := launchable 15 1
       let readers := figure.slots.filter fun x => (p.member x).state = .online
       min (min figure.bandRows (figure.k - 15)) (min p.pace.remaining (p.freeFrames .sweep / (readers.length + 1))) = 1) ∧
      (launchable 0 0).pace.remaining = 0 ∧
      (let p : Part := { sweepIn .sweeping with
         sweep := { Sweep.initial with state := .sweeping, window := [some aContext, some { aContext with stripe := 1 },
                                                                      none, none] } }
       (p.context? 0 = some aContext ∧ aContext.nextRow < figure.k) ∧ p.context? 1 = some { aContext with stripe := 1 }) :=
  ⟨fun _ _ => ⟨rfl, rfl, rfl, rfl, rfl⟩, by decide, by decide, rfl, by decide⟩

/-- A sweep coming to rest with a PAUSE waiting in entry 31. -/
def resting (st : SweepState) (halts : BitVec 4) : State :=
  doing (order kindPauseSweep 0 0 0) .waiting
    { sweepIn st with
      sweep := { Sweep.initial with state := st, watermark := 19, next := 20, haltSet := halts, pauseWait := [31] } }

theorem witness_TheSweepComesToRest :
    (∀ st halts, (resting st halts).part.sweepSettled = true ∧ (resting st halts).part.retry.joins = [] ∧
      (resting st halts).part.sweep.state = st ∧ (resting st halts).part.sweep.haltSet = halts ∧
      (∀ e ∈ (resting st halts).part.sweep.pauseWait,
        ∃ r, (resting st halts).part.entry? e = some { record := r, work := .waiting }) ∧
      (resting st halts).part.isLatched .checkpointFault = false ∧ (resting st halts).part.geometry.profile ≠ none ∧
      (resting st halts).part.targetSlot ≠ none ∧ (resting st halts).part.condition ≠ .failed ∧
      (resting st halts).part.sweep.pass = .main ∧
      (resting st halts).part.sweep.watermark < (resting st halts).part.stripeCount) ∧
      (8 : BitVec 4) ≠ 0 ∧ (noTarget ready).targetSlot = none := by
  refine ⟨fun st halts => ⟨rfl, rfl, rfl, rfl, ?_, ?_, (nomatch ·), (nomatch ·), (nomatch ·), rfl, ?_⟩, by decide,
    by decide⟩
  · intro e he
    cases List.mem_singleton.mp he
    exact ⟨_, rfl⟩
  · show ready.isLatched .checkpointFault = false
    decide
  · show 19 < 20
    decide

/-- A sweep coming to rest with a settled and an unsettled context, a checkpoint write in flight, or a load in progress. -/
theorem witness_TheSweepComesToRest_contexts :
    let p : Part := { storing .pausing with
      sweep := { Sweep.initial with state := .pausing,
                                    window := [some { aContext with settled := true }, some { aContext with stripe := 1 },
                                               none, none] } }
    p.sweepSettled = true ∧ p.retry.joins = [] ∧ p.sweep.pauseWait = [] ∧
      (p.context? 0).map (·.settled) = some true ∧ (p.context? 1).map (·.settled) = some false ∧
      (∀ i, i < 4 → p.locks.waits (.context i) = false) ∧
      (storing .pausing).store.write ≠ none ∧ (sweepIn .pausing).store.write = none ∧
      (loadingIn .halting 0 [] false [0]).part.loading = true ∧
      (loadingIn .halting 0 [] false [0]).part.targetSlot ≠ none ∧
      (loadingIn .halting 0 [] false [0]).part.condition ≠ .failed := by
  refine ⟨by decide, by decide, by decide, by decide, by decide, by decide, ?_, by decide, by decide, by decide, by decide⟩
  simp [storing, beginStoreWrite, CheckpointStore.takeTo, sweepIn, ready, Part.onStore, recordedState]

/-- A window end of the figures' set in a mode with these counts, the backlog as the table gives it. -/
def ending (track : Bool) (inBand drift : Nat) (below : Bool) (set : PaceSet) : Part :=
  { sweepIn .sweeping with
    pace := { (sweepIn .sweeping).pace with installed := some set, track, inBand, drift, below } }

/-- A part with this many extent orders in its Order Table. -/
def loaded (n : Nat) (p : Part) : Part :=
  { p with table := { entries := List.replicate n (some { record := order 1 0 1 0, work := .held }) ++
                        List.replicate (32 - n) none, handed := [] } }

theorem witness_AWindowEndUpdatesTheBudget :
    let x := figure.pace
    (∀ t i d b, (ending t i d b x).pace.timer ≠ none ∧ (ending t i d b x).pace.installed = some x ∧
      (ending t i d b x).pace.next = none ∧ (ending t i d b x).pace.track = t) ∧
      x.adaptive = true ∧ ({ x with adaptive := false }).adaptive = false ∧
      (x.high < (loaded 7 ready).backlog ∧ (loaded 1 ready).backlog < x.low ∧ x.low ≤ (loaded 2 ready).backlog ∧
        (loaded 6 ready).backlog ≤ x.high ∧ x.low < x.high) ∧
      ((ending false 3 0 false x).pace.inBand + 1 = 4 ∧ (ending false 2 0 false x).pace.inBand + 1 ≠ 4 ∧
        (ending false 2 0 false x).pace.drift = 0 ∧ (ending true 0 2 true x).pace.inBand = 0) ∧
      (let side (c : Pace) (below : Bool) : Nat := if c.below = below ∧ 0 < c.drift then c.drift + 1 else 1
       side (ending true 0 2 true x).pace true = 3 ∧ side (ending true 0 2 true x).pace false = 1) ∧
      ({ (ending false 0 0 false x).pace with next := some x }).next = some x :=
  ⟨fun _ _ _ _ => ⟨(nomatch ·), rfl, rfl, rfl⟩, rfl, rfl, by decide, by decide, by decide, rfl⟩

/-! ### Witnesses: the Retry List, the log and the slots -/

theorem witness_JoinsAndRefillsMoveEntries :
    let busy (b : ExtensionBusy) : Part := { joining with retry := { aRetry with busy := b } }
    let j : Join := { place := 0, stripe := 9, attempt := 2, reason := .notReady, move := false }
    let entry (stripe attempt : Nat) : List Byte := leBytes 4 stripe ++ leBytes 1 attempt ++ [1] ++ reserved 10
    joining.retry.busy = .join j false ∧ (busy (.join j true)).retry.busy = .join j true ∧
      (busy (.refill true)).retry.busy = .refill true ∧ (busy (.refill false)).retry.busy = .refill false ∧
      (0 < joining.retry.count ∧ joining.retry.range = some (2, 5)) ∧
      (refillEntry (busy (.refill false)).stripeCount (entry 19 2)).isSome = true ∧
      (refillEntry (busy (.refill false)).stripeCount (entry 19 3)).isSome = true ∧
      (some (entry 20 2)).bind (refillEntry (busy (.refill false)).stripeCount) = none ∧
      (some (entry 19 4)).bind (refillEntry (busy (.refill false)).stripeCount) = none ∧
      (none : Option (List Byte)).bind (refillEntry (busy (.refill false)).stripeCount) = none := by decide

/-- A join that waits, with room and without, RETRY_OVERFLOW latched and not; and contexts about to settle, at the end of
each pass and before it. -/
theorem witness_JoinsAndRefillsMoveEntries_settle :
    let j : Join := { place := 0, stripe := 9, attempt := 2, reason := .notReady, move := false }
    let p (count : Nat) : Part := { joining with retry := { aRetry with busy := .idle, joins := [j], count } }
    ((∀ n, (p n).retry.joins = [j] ∧ (p n).retry.busy = .idle ∧ (p n).mayBeginDma = true ∧ (p n).retry.count = n ∧
        (p n).retry.capacity = 4 ∧ (p n).sweep.state = .sweeping) ∧
      (p 4).isLatched .retryOverflow = false ∧ (latched .retryOverflow (p 4)).isLatched .retryOverflow = true ∧
      (p 4).retry.detail ≠ .areaFault) ∧
      (let c : Context := { aContext with stripe := 19, lostRows := 1 }
       let q (st : SweepState) (c : Context) (w : Nat) (list : RetryList) (interval : Nat) : Part := { sweepIn st with
         geometry := { ready.geometry with profile := some { figure with interval } },
         retry := list,
         sweep := { Sweep.initial with state := st, watermark := w, next := 20, window := some c :: List.replicate 3 none } }
       (∀ st c w l i, (q st c w l i).geometry.profile = some { figure with interval := i } ∧
         (q st c w l i).context? 0 = some c ∧ (q st c w l i).sweep.window.length = 4 ∧ (q st c w l i).sweep.state = st ∧
         (q st c w l i).sweep.settleCount = 0) ∧
       (c.lostRows ≠ 0 ∧ c.reserved = true ∧ aContext.lostRows = 0 ∧ aContext.mendedRows = 0 ∧
         aContext.mendFailed = false ∧ aContext.deferral = none) ∧
       (c.source = .main ∧ ({ c with source := .retry }).source = .retry) ∧
       (RetryList.initial.isEmpty = true ∧ aRetry.isEmpty = false) ∧
       (settleRest 0 (q .sweeping c 19 .initial 0)).sweep.watermark = 20 ∧
       (settleRest 0 (q .sweeping c 18 .initial 0)).sweep.watermark = 18 ∧ 0 + 1 < 2 ∧ 1 ≤ 0 + 1 ∧
       (q .sweeping c 19 .initial 1).isLatched .checkpointFault = false ∧ recordedState .sweeping ≠ none ∧
       ∀ i, i < 4 → i ≠ 0 → (q .retrying { c with source := .retry } 20 .initial 0).context? i = none) := by
  refine ⟨⟨fun n => ⟨rfl, rfl, rfl, rfl, rfl, rfl⟩, by decide, by decide, by decide⟩,
    fun _ _ _ _ _ => ⟨rfl, rfl, rfl, rfl, rfl⟩, by decide, by decide, by decide, by decide +kernel, by decide +kernel,
    by decide, by decide, by decide, by decide, by decide⟩

/-- An extension with an entry and a FREE place, no place, no entry, an area fault, a read in flight, or a join first; and
an engine that may begin no DMA. -/
theorem witness_JoinsAndRefillsMoveEntries_refills :
    let list : RetryList := { aRetry with busy := .idle }
    let p (list : RetryList) (st : EngineState) (drained : Bool) : Part :=
      { sweepIn .paused with retry := list, engine := { state := st, drained } }
    let q := p list .bound false
    (q.retry.joins = [] ∧ q.retry.busy = .idle ∧ q.retry.onChip.length < 32 ∧ 0 < q.retry.count ∧
      q.engine.state = .bound ∧ q.isLatched .retryOverflow = false) ∧
      (let full := { list with onChip := List.replicate 32 { stripe := 3, attempt := 2, reason := .timeout, taken := none } }
       full.joins = [] ∧ ¬full.onChip.length < 32) ∧
      ¬0 < RetryList.initial.count ∧
      ((latched .retryOverflow q).isLatched .retryOverflow = true ∧ ({ list with detail := .areaFault }).detail = .areaFault) ∧
      ({ list with busy := .refill false }).busy ≠ .idle ∧
      (let last := p list .unbinding true
       last.engine.drained = true ∧ last.entriesInUse = [] ∧ last.sweep.atRest = true) ∧
      (p list .unbinding false).engine.drained = false ∧
      (let j : Join := { place := 0, stripe := 9, attempt := 2, reason := .notReady, move := false }
       ({ list with joins := [j] }).joins = [j] ∧ list.count < list.capacity) := by decide

theorem witness_ACheckpointWriteEndsWellOrFaults :
    ∃ w, (storing .paused).store.write = some w ∧ w.slot < (storing .paused).store.slots.length ∧
      w.taken ≤ w.writes.length ∧ StoreEnd.bodyFault [] ≠ .good ∧ StoreEnd.tailFault [] ≠ .good ∧ w.taken ≤ 252 :=
  ⟨_, rfl, by decide, by decide +kernel, by decide, by decide, by decide⟩

/-- A write in flight with an order that waits for it and one for the next, again-pending or not, and with the sweep's own
wait in FINISHING and ABANDONING, the window empty and not. -/
theorem witness_ACheckpointWriteEndsWellOrFaults_waits :
    let p (st : SweepState) (again : Bool) (wait : Option Bool) (window : List (Option Context)) : Part :=
      let q := (storing st).onStore fun c => { c with again, sweepWait := wait,
                                                      waiters := [⟨31, false⟩, ⟨30, true⟩] }
      { q with
        sweep := { Sweep.initial with state := st, window,
                                      abandonWait := some { entry := 29, watermark := 5, wrote := none } },
        table := { entries := List.replicate 29 none ++ List.replicate 3 (some { record := order 0 0 0 0, work := .waiting }),
                   handed := [] } }
    (∀ st again wait window, (p st again wait window).store.again = again ∧ (p st again wait window).store.sweepWait = wait ∧
      (p st again wait window).store.waiters = [⟨31, false⟩, ⟨30, true⟩] ∧ (p st again wait window).sweep.state = st ∧
      (p st again wait window).sweep.abandonWait = some { entry := 29, watermark := 5, wrote := none } ∧
      (p st again wait window).geometry.profile ≠ none ∧
      (∀ x ∈ (p st again wait window).store.waiters, x.entry ≠ 29) ∧
      ∀ e ∈ [29, 31], ((p st again wait window).entry? e).isSome = true) ∧
      (∀ st ∈ [SweepState.paused, .finishing, .abandoning], ∃ w, (p st true none []).store.write = some w ∧ w.slot = 0) ∧
      recordedState .paused ≠ none ∧ (p .paused true none []).isLatched .checkpointFault = false ∧
      (p .abandoning false (some false) (List.replicate 4 none)).windowEmpty = true ∧
      (p .abandoning false (some false) [some aContext, none, none, none]).windowEmpty = false ∧
      (p .finishing true (some true) []).targetSlot = some 4 := by
  refine ⟨fun st again wait window => ⟨rfl, rfl, rfl, rfl, rfl, ?_, ?_, ?_⟩, ?_, by decide, by decide, by decide, by decide,
    by decide⟩
  · cases st <;> exact (nomatch ·)
  · intro x hx
    have hm : x ∈ ([⟨31, false⟩, ⟨30, true⟩] : List Waiter) := hx
    clear hx
    revert x
    decide
  · intro e he
    simp only [List.mem_cons, List.not_mem_nil, or_false] at he
    rcases he with rfl | rfl <;> rfl
  · intro st hs
    simp only [List.mem_cons, List.not_mem_nil, or_false] at hs
    rcases hs with rfl | rfl | rfl <;> exact ⟨_, rfl, rfl⟩

/-- A write that ends with the sweep IDLE or STARTING and again-pending set. -/
theorem witness_ACheckpointWriteEndsWellOrFaults_idle :
    let p (st : SweepState) : Part :=
      { storing .paused with
        store := { (storing .paused).store with again := true, waiters := [⟨31, false⟩, ⟨30, true⟩] },
        sweep := { Sweep.initial with state := st },
        table := { entries := List.replicate 30 none ++ List.replicate 2 (some { record := order 0 0 0 0, work := .waiting }),
                   handed := [] } }
    (∀ st, (p st).store.sweepWait = none ∧ (p st).store.again = true ∧ (p st).sweep.state = st ∧
      (p st).store.waiters = [⟨31, false⟩, ⟨30, true⟩]) ∧
      (∃ w, (p .idle).store.write = some w ∧ w.slot < 2) ∧
      recordedState .idle = none ∧ recordedState .starting = none ∧ ((p .idle).entry? 31).isSome = true ∧
      ((p .idle).entry? 30).isSome = true :=
  ⟨fun _ => ⟨rfl, rfl, rfl, rfl⟩, ⟨_, rfl, by decide⟩, rfl, rfl, rfl, rfl⟩

theorem witness_ALogEntryIsBodyThenHeader :
    let p (w : LogWriter) : Part := { ready with
      findings := { ready.findings with writer := w, staged := [aContext.finding], sequence := 2 ^ 32 - 1 } }
    (p .body).findings.writer = .body ∧ (p .header).findings.writer = .header ∧
      (p .header).findings.area = some (0x20000, 16) ∧ (p .header).retry.joins = [] ∧
      (p .header).findings.sequence = 2 ^ 32 - 1 ∧ (p .body).findings.staged = [aContext.finding] ∧
      (p .idle).mayBeginDma = true ∧ (p .idle).isLatched .logFault = false ∧ (p .idle).findings.writer = .idle ∧
      (p .idle).findings.episode = false ∧ (0 + 16 - 0 % 16) % 16 ≠ 16 - 1 ∧ (15 + 16 - 16 % 16) % 16 = 16 - 1 := by decide

/-! ### One step -/

/-- The state after a command. -/
def after (c : Instr) (s : State) : State :=
  match exec c s with
  | .next t => t
  | _ => s

/-- 12_order_chain_register_window_and_alerts.md, parking and a latched nudge: the nudge in PARKED is taken by a reread. -/
theorem test_nudge_in_parked :
    let i := (after (.nudge 0) (still { parked with intake := { parked.intake with reread := .none } })).part.intake
    (i.state, i.latch, i.reread) = (.parked, false, .live) := by decide +kernel

/-- R71: a READ of two blocks answered GOOD with one sector is taken as NOT_READY, and rejoins the head as a retry. -/
theorem test_short_good :
    let l := (after (.good 0 15 [[]] []) (still (onTag (.issued (aRead 0 2) [])))).part.lane 0
    l.orderQueue.map (fun q => (q.retries, q.origin)) = [(1, .retry)] := by decide +kernel

/-- R15, R12: the third erasure makes the array FAILED; R11, R14: the order's details are 3, ABSENT, and 4, FAILED. -/
theorem test_third_erasure :
    let g := { figure with states := [.absent, .online, .online, .online, .target, .online] }
    let t := after (.memberState 31) (handed (order 0x11 1 1 0) { ready with
      geometry := { Geometry.initial with profile := some g, members := memberTable g } })
    (t.part.condition, t.part.workOf 31, t.part.alerts.pending) =
      (ArrayCondition.failed, some (OrderWork.completing .ok 3 4 false), 0x21) := by decide +kernel

/-- R152: a remaining budget of 1 cuts the band to 1 row, and R51 gives it a frame per reader and one for the target. -/
theorem test_band_cut_by_the_budget :
    let p := (after (.bandLaunch 0) (still (launchable 0 1))).part
    (p.pace.remaining, (p.context? 0).map (·.nextRow), p.freeFrames .sweep, (p.lane 4).sweepQueue.length,
      (p.lane 5).sweepQueue.length) = (0, some 1, 10, 0, 1) := by decide +kernel

end Sys2Proof.Tests
end

section
/-! PROOFS. Trailers (R18 to R23): what a check finds in a trailer that was made for a block, and O14. -/

namespace Sys2Proof.Machine

/-! ### Trailers (R18 to R23) -/

/-- A little-endian field that its size can hold is read back from behind other bytes. -/
theorem leField_leBytes (before after : List Byte) (size n : Nat) (fits : n < 256 ^ size) :
    leField (before ++ (leBytes size n ++ after)) before.length size = n := by
  rw [leField, List.drop_left, List.take_left' (length_leBytes size n), leValue_leBytes, Nat.mod_eq_of_lt fits]

@[simp] theorem length_trailerBytes (stripe homeSlot : Nat) (block : Block) :
    (trailerBytes stripe homeSlot block).length = 8 := by simp [trailerBytes]

/-- The check code field of a trailer (R18). -/
theorem leField_trailerBytes_code (stripe homeSlot : Nat) (block : Block) :
    leField (trailerBytes stripe homeSlot block) 0 4 = (checkCode block).toNat := by
  have h := leField_leBytes [] (leBytes 3 (homeStripe stripe) ++ [BitVec.ofNat 8 homeSlot]) 4 (checkCode block).toNat
    (checkCode block).isLt
  simpa [trailerBytes] using h

/-- The home stripe field of a trailer (R18, R20). -/
theorem leField_trailerBytes_stripe (stripe homeSlot : Nat) (block : Block) :
    leField (trailerBytes stripe homeSlot block) 4 3 = homeStripe stripe := by
  have h := leField_leBytes (leBytes 4 (checkCode block).toNat) [BitVec.ofNat 8 homeSlot] 3 (homeStripe stripe)
    (Nat.mod_lt _ (by decide))
  simpa [trailerBytes] using h

/-- The home slot field of a trailer (R18). -/
theorem leField_trailerBytes_slot (stripe homeSlot : Nat) (block : Block) (fits : homeSlot < 256) :
    leField (trailerBytes stripe homeSlot block) 7 1 = homeSlot := by
  have h := leField_leBytes (leBytes 4 (checkCode block).toNat ++ leBytes 3 (homeStripe stripe)) [] 1 homeSlot
    (by omega)
  simpa [trailerBytes, leBytes] using h

/-- The check of a whole block against the trailer made for it (R21): the code agrees, so the home fields decide. -/
theorem checkTrailer_trailerBytes (stripe slot home homeSlot : Nat) (block : Block) (whole : block.length = 4096)
    (fits : homeSlot < 256) :
    checkTrailer stripe slot block (trailerBytes home homeSlot block) =
      if homeSlot = 0xFF then .erased .poison
      else if homeSlot ≠ slot ∨ homeStripe home ≠ homeStripe stripe then .erased .trailer
      else .good := by
  simp only [checkTrailer, whole, length_trailerBytes, leField_trailerBytes_slot home homeSlot block fits,
    leField_trailerBytes_stripe, leField_trailerBytes_code, ne_eq, not_true_eq_false, or_self, if_false]

/-- Settles O14: the trailer's fields are read back as they were made, and R21's tests follow from them. -/
theorem freshTrailersPassOnlyWhereTheyBelong : Obligations.FreshTrailersPassOnlyWhereTheyBelong := by
  intro stripe slot block hslot whole
  have fits : slot < 256 := by omega
  have marked : slot ≠ 0xFF := by omega
  refine ⟨?_, fun stripe' slot' elsewhere => ?_, fun stripe' slot' => ?_⟩
  · rw [freshTrailer, checkTrailer_trailerBytes _ _ _ _ _ whole fits, if_neg marked, if_neg (by simp)]
  · have moved : slot ≠ slot' ∨ homeStripe stripe ≠ homeStripe stripe' := elsewhere.imp Ne.symm Ne.symm
    rw [freshTrailer, checkTrailer_trailerBytes _ _ _ _ _ whole fits, if_neg marked, if_pos moved]
  · have zeros : zeroBlock.length = 4096 := List.length_replicate
    rw [poisonTrailer, checkTrailer_trailerBytes _ _ _ _ _ zeros (by decide), if_pos rfl]

end Sys2Proof.Machine
end

section
/-! PROOFS. Row classes (R28, R29) and the rows of a sweep band (R30, R105): what classifying a row finds and does, and
O15. -/

namespace Sys2Proof.Machine

/-! ### Row classes (R28, R29) -/

/-- The kinds among results are those of the erased ones. -/
theorem mem_erasureKinds {k : ErasureKind} {results : List BlockResult} :
    k ∈ erasureKinds results ↔ .erased k ∈ results := by
  rw [erasureKinds, List.mem_filterMap]
  constructor
  · rintro ⟨r, hr, hk⟩
    cases r with
    | good => cases hk
    | erased j => cases hk; exact hr
  · exact fun h => ⟨_, h, rfl⟩

/-- No kind is among results that are all GOOD. -/
theorem length_erasureKinds_eq_zero {results : List BlockResult} :
    (erasureKinds results).length = 0 ↔ ∀ r ∈ results, r = .good := by
  rw [List.length_eq_zero_iff, List.eq_nil_iff_forall_not_mem]
  constructor
  · intro none r hr
    cases r with
    | good => rfl
    | erased k => exact absurd (mem_erasureKinds.mpr hr) (none k)
  · intro good k hk
    cases good _ (mem_erasureKinds.mp hk)

/-- A transient kind is among them (R25). -/
theorem any_transient_iff {kinds : List ErasureKind} :
    kinds.any ErasureKind.transient = true ↔ .timeout ∈ kinds ∨ .notReady ∈ kinds := by
  rw [List.any_eq_true]
  constructor
  · rintro ⟨k, hk, ht⟩
    cases k <;> cases ht
    · exact .inl hk
    · exact .inr hk
  · rintro (h | h)
    · exact ⟨_, h, rfl⟩
    · exact ⟨_, h, rfl⟩

/-- What a classification finds: the number of erasures, whether a transient one is among them, and the attempt (R28,
R29). -/
theorem classifyRow_cases (last : Bool) (results : List BlockResult) :
    let kinds := erasureKinds results
    let transient := .timeout ∈ kinds ∨ .notReady ∈ kinds
    (kinds.length = 0 ∧ classifyRow last results = .clean) ∨
      ((kinds.length = 1 ∨ kinds.length = 2) ∧ classifyRow last results = .recoverable) ∨
      (3 ≤ kinds.length ∧ transient ∧ last = false ∧
        classifyRow last results = .deferrable (if .timeout ∈ kinds then .timeout else .notReady)) ∨
      (3 ≤ kinds.length ∧ (last = true ∨ ¬transient) ∧ classifyRow last results = .lost) := by
  intro kinds transient
  have decides : kinds.any ErasureKind.transient = true ↔ transient := any_transient_iff
  simp only [classifyRow, show erasureKinds results = kinds from rfl]
  split
  · exact .inl ⟨‹_›, rfl⟩
  · split
    · exact .inr (.inl ⟨by omega, rfl⟩)
    · have many : 3 ≤ kinds.length := by omega
      split
      · rename_i both
        rw [Bool.and_eq_true, decides, Bool.not_eq_true'] at both
        exact .inr (.inr (.inl ⟨many, both.1, both.2, by simp⟩))
      · rename_i both
        rw [Bool.and_eq_true, decides, Bool.not_eq_true', Classical.not_and_iff_not_or_not, Bool.not_eq_false] at both
        exact .inr (.inr (.inr ⟨many, both.symm, rfl⟩))

/-- The four classes by the erasures, each with all that leads to it (R28, R29). -/
theorem classifyRow_iff (last : Bool) (results : List BlockResult) :
    let kinds := erasureKinds results
    (classifyRow last results = .clean ↔ ∀ r ∈ results, r = .good) ∧
      (classifyRow last results = .recoverable ↔ kinds.length = 1 ∨ kinds.length = 2) ∧
      (∀ reason, classifyRow last results = .deferrable reason ↔
        last = false ∧ 3 ≤ kinds.length ∧ (.timeout ∈ kinds ∨ .notReady ∈ kinds) ∧
          (reason = .timeout ↔ .timeout ∈ kinds)) ∧
      (classifyRow last results = .lost ↔
        3 ≤ kinds.length ∧ (last = true ∨ ∀ k ∈ kinds, k ≠ .timeout ∧ k ≠ .notReady)) := by
  intro kinds
  have permanent : (∀ k ∈ kinds, k ≠ .timeout ∧ k ≠ .notReady) ↔ ¬(.timeout ∈ kinds ∨ .notReady ∈ kinds) := by
    grind
  rw [← length_erasureKinds_eq_zero, permanent]
  obtain ⟨size, class_eq⟩ | ⟨size, class_eq⟩ | ⟨size, transient, notLast, class_eq⟩ | ⟨size, settled, class_eq⟩ :=
    classifyRow_cases last results <;> rw [class_eq]
  · grind
  · grind
  · refine ⟨by grind, by grind, fun reason => ?_, by grind⟩
    cases reason <;> grind
  · grind

/-! ### Rows of sweep bands and of host orders -/

/-- A sweep row's target is erased, so its row is never CLEAN (R28). -/
theorem rowClass_ne_clean (b : SweepBand) (g : Profile) (attempt row : Nat) (target : b.target < g.m) :
    b.rowClass g attempt row ≠ .clean := by
  intro clean
  obtain ⟨clean_iff, -⟩ := classifyRow_iff (decide (attempt = g.retryPasses)) (g.slots.map (b.result row))
  have good := clean_iff.mp clean (b.result row b.target) (List.mem_map_of_mem (List.mem_range.mpr target))
  simp [SweepBand.result] at good

/-- A classification that is the last permitted one defers nothing (R29). -/
theorem classifyRow_last_ne_deferrable (results : List BlockResult) (reason : Reason) :
    classifyRow true results ≠ .deferrable reason := by
  intro deferred
  obtain ⟨-, -, deferrable_iff, -⟩ := classifyRow_iff true results
  obtain ⟨notLast, -⟩ := (deferrable_iff reason).mp deferred
  cases notLast

/-- A result is no erasure exactly when it is GOOD. -/
theorem isErased_iff {r : BlockResult} : r.isErased = true ↔ r ≠ .good := by
  cases r <;> simp [BlockResult.isErased]

/-- The slots of an array. -/
theorem mem_slots {g : Profile} {s : Nat} : s ∈ g.slots ↔ s < g.m := List.mem_range

/-- The erased slots of a sweep row. -/
theorem mem_erased {b : SweepBand} {g : Profile} {row s : Nat} :
    s ∈ b.erased g row ↔ s < g.m ∧ b.result row s ≠ .good := by
  rw [SweepBand.erased, List.mem_filter, mem_slots, isErased_iff]

/-- The kinds a mend can repair (R30). -/
theorem mendable_kind_iff {k : ErasureKind} : k.mendable = true ↔ k = .medium ∨ k = .trailer ∨ k = .poison := by
  cases k <;> simp [ErasureKind.mendable]

/-- The mendable slots of a sweep row: erased, not the target's, of a member that is there, and of a kind that a mend
repairs (R30). -/
theorem mem_mendable {g : Profile} {p : Part} {b : SweepBand} {row s : Nat} :
    s ∈ mendable g p b row ↔ s ∈ b.erased g row ∧ s ≠ b.target ∧ g.mend = true ∧ (p.member s).state ≠ .absent ∧
      (b.result row s = .erased .medium ∨ b.result row s = .erased .trailer ∨ b.result row s = .erased .poison) := by
  rw [mendable, List.mem_filter, mem_slots, mem_erased]
  cases b.result row s with
  | good => simp
  | erased k => simp [Part.isAbsent, mendable_kind_iff, and_assoc]

/-- Members put into a set one after the other. -/
theorem getLsbD_foldl_setBit {w : Nat} (l : List Nat) (set : BitVec w) (i : Nat) (h : i < w) :
    (l.foldl setBit set).getLsbD i = true ↔ set.getLsbD i = true ∨ i ∈ l := by
  induction l generalizing set with
  | nil => simp
  | cons a l ih =>
    simp only [List.foldl_cons, ih, getLsbD_setBit, h, decide_true, Bool.true_and, Bool.or_eq_true, decide_eq_true_iff,
      List.mem_cons, or_assoc, eq_comm (a := a)]

/-- The involved slots after a row: those before it and its erased slots other than the target (R105). -/
theorem getLsbD_involve (slots : BitVec 24) (b : SweepBand) (erased : List Nat) (s : Nat) (h : s < 24) :
    (involve slots b erased).getLsbD s = true ↔ slots.getLsbD s = true ∨ (s ∈ erased ∧ s ≠ b.target) := by
  rw [involve, getLsbD_foldl_setBit _ _ _ h, List.mem_filter, decide_eq_true_iff]

/-! ### Contexts and frames -/

/-- Contexts are read from the Sweep Controller alone. -/
theorem context?_congr {p q : Part} (h : q.sweep = p.sweep) (place : Nat) : q.context? place = p.context? place :=
  congrArg (fun s => s.window.getD place none) h

/-- A changed context is the old one through the change. -/
@[simp] theorem context?_modContext (p : Part) (place : Nat) (f : Context → Context) :
    (p.modContext place f).context? place = (p.context? place).map f :=
  getD_modAt_map (Option.map f) p.sweep.window place rfl

/-- A changed band stands in its context. -/
@[simp] theorem context?_modSweepBand (p : Part) (place : Nat) (f : SweepBand → SweepBand) :
    (p.modSweepBand place f).context? place = (p.context? place).map fun c => { c with band := c.band.map f } :=
  context?_modContext p place _

theorem modFrame_sweep (p : Part) (i : Nat) (f : Frame → Frame) : (p.modFrame i f).sweep = p.sweep := rfl

theorem frame_modFrame_self (p : Part) (i : Nat) (f : Frame → Frame) (h : i < p.buffer.frames.length) :
    (p.modFrame i f).frame i = f (p.frame i) := getD_modAt_self f p.buffer.frames Frame.initial h

theorem frame_modFrame_ne (p : Part) {i j : Nat} (f : Frame → Frame) (h : i ≠ j) :
    (p.modFrame i f).frame j = p.frame j := getD_modAt_ne f p.buffer.frames Frame.initial h

@[simp] theorem modFrame_frames_length (p : Part) (i : Nat) (f : Frame → Frame) :
    (p.modFrame i f).buffer.frames.length = p.buffer.frames.length := length_modAt f p.buffer.frames i

/-- Upsets leave the Sweep Controller as it is. -/
theorem strikeFrames_sweep (fs : List Nat) (p : Part) : (strikeFrames fs p).sweep = p.sweep := by
  unfold strikeFrames
  induction fs generalizing p with
  | nil => rfl
  | cons a l ih => exact ih _

/-- A frame after upsets (R56, log 12). -/
theorem frame_strikeFrames (fs : List Nat) (p : Part) (i : Nat) (h : i < p.buffer.frames.length) :
    (strikeFrames fs p).frame i = { p.frame i with upset := (p.frame i).upset || fs.contains i } := by
  unfold strikeFrames
  induction fs generalizing p with
  | nil => simp
  | cons a l ih =>
    rw [List.foldl_cons, ih _ (by simpa using h)]
    by_cases same : a = i
    · subst same
      rw [frame_modFrame_self p a _ h]
      simp
    · rw [frame_modFrame_ne p _ same]
      simp [Ne.symm same]

/-- A block placed in a frame that is fit, and then struck by those of the upsets that meet it (R50, R56). -/
theorem frame_strike_placeFrame (p : Part) (i : Nat) (block : Block) (trailer : List Byte) (upsets : List Nat)
    (h : i < p.buffer.frames.length) (fit : (p.frame i).state ≠ .unfit) :
    (strikeFrames (upsets.filter (· = i)) (placeFrame i block trailer p)).frame i =
      { p.frame i with state := .placed, block, trailer, upset := upsets.contains i } := by
  have placed : (placeFrame i block trailer p).frame i =
      { p.frame i with state := .placed, block, trailer, upset := false } := by
    rw [placeFrame, frame_modFrame_self p i _ h, Frame.fill, if_neg fit]
  rw [frame_strikeFrames _ _ _ (by simpa [placeFrame] using h), placed]
  simp

/-! ### One row of a sweep band (R105) -/

/-- Of a row of any class the context takes the involved slots. -/
theorem context?_noteInvolved (place : Nat) (g : Profile) (b : SweepBand) (row : Nat) (p : Part) :
    (noteInvolved place g b row p).context? place =
      (p.context? place).map fun c => { c with involved := involve c.involved b (b.erased g row) } :=
  context?_modContext p place _

/-- A RECOVERABLE row hands over its job. -/
theorem classifySweepRow_recoverable {place : Nat} {g : Profile} {c d : Context} {b x : SweepBand} {upsets : List Nat}
    {p : Part} {row : Nat} (context : p.context? place = some d) (band : d.band = some x)
    (h : b.rowClass g c.attempt row = .recoverable) :
    let q := classifySweepRow place g c b upsets p row
    let mends := mendable g p b row
    q.buffer = p.buffer ∧
      q.context? place = some { d with
        involved := involve d.involved b (b.erased g row),
        band := some { x with jobs := x.jobs ++ [{ row, erased := b.erased g row, wanted := b.target :: mends }],
                              writeRows := x.writeRows ++ [row], mends := x.mends ++ mends.map fun s => (row, s) } } := by
  simp only [classifySweepRow, h]
  exact ⟨rfl, by simp [context?_noteInvolved, context, band]⟩

/-- A DEFERRABLE row gives its context its reason, TIMEOUT before NOT_READY. -/
theorem classifySweepRow_deferrable {place : Nat} {g : Profile} {c d : Context} {b : SweepBand} {upsets : List Nat}
    {p : Part} {row : Nat} {reason : Reason} (context : p.context? place = some d)
    (h : b.rowClass g c.attempt row = .deferrable reason) :
    let q := classifySweepRow place g c b upsets p row
    q.buffer = p.buffer ∧
      q.context? place = some { d with
        involved := involve d.involved b (b.erased g row),
        deferral := if d.deferral = some .timeout then some .timeout else some reason } := by
  simp only [classifySweepRow, h]
  exact ⟨rfl, by simp [context?_noteInvolved, context, mergeReason]⟩

/-- A LOST row is noted in its context and among the rows to write. -/
theorem classifySweepRow_lost {place : Nat} {g : Profile} {c d : Context} {b x : SweepBand} {upsets : List Nat}
    {p : Part} {row : Nat} (context : p.context? place = some d) (band : d.band = some x)
    (h : b.rowClass g c.attempt row = .lost) :
    (classifySweepRow place g c b upsets p row).context? place = some { d with
      involved := involve d.involved b (b.erased g row), lostRows := setBit d.lostRows row,
      band := some { x with writeRows := x.writeRows ++ [row] } } := by
  have noted : (noteInvolved place g b row p).context? place =
      some { d with involved := involve d.involved b (b.erased g row) } := by rw [context?_noteInvolved, context]; rfl
  simp only [classifySweepRow, h, context?_modSweepBand, context?_modContext]
  split
  · rw [context?_congr (strikeFrames_sweep _ _), placeFrame, context?_congr (modFrame_sweep _ _ _), noted]
    simp [band]
  · rw [noted]
    simp [band]

/-- The poison block of a LOST row is placed in the target's frame (R23, R105). -/
theorem classifySweepRow_lost_frame {place : Nat} {g : Profile} {c : Context} {b : SweepBand} {upsets : List Nat}
    {p : Part} {row f : Nat} (h : b.rowClass g c.attempt row = .lost) (serves : frameAt b.places row b.target .new = some f)
    (inRange : f < p.buffer.frames.length) (fit : (p.frame f).state ≠ .unfit) :
    (classifySweepRow place g c b upsets p row).frame f =
      { p.frame f with state := .placed, block := zeroBlock, trailer := poisonTrailer c.stripe,
                       upset := upsets.contains f } := by
  simp only [classifySweepRow, h, serves]
  exact frame_strike_placeFrame (noteInvolved place g b row p) f _ _ upsets inRange fit

/-! ### A sweep band whose READs have completed -/

/-- The test for a band without jobs, as it is made and as it is said. -/
theorem any_jobs_iff (band : Option SweepBand) :
    (band.any fun x => x.jobs = []) = true ↔ band.map (·.jobs) = some [] := by
  cases band <;> simp

/-- A reading band with no READ outstanding classifies its rows in order, then goes on to its jobs, or with none to its
writes (R105). -/
theorem advanceSweepBand_reading {place : Nat} {g : Profile} {c : Context} {b : SweepBand} (upsets : List Nat) {p : Part}
    (profile : p.geometry.profile = some g) (context : p.context? place = some c) (band : c.band = some b)
    (reading : b.stage = .reading) (quiet : p.outstanding (.sweepBand place) = []) :
    let q := b.rows.foldl (classifySweepRow place g c b upsets)
      (p.modSweepBand place fun x => { x with stage := .rebuilding })
    advanceSweepBand upsets p place = endSweepBand place
      (if (q.sweepBand? place).map (·.jobs) = some [] then writeSweepBand place q else q) := by
  simp only [advanceSweepBand, context, band, reading, quiet, and_self, if_true, classifySweepBand, profile, any_jobs_iff]

/-- Settles O15: the classes by the erasures, then the rows of a sweep band class by class. -/
theorem rowClassesFollowTheErasures : Obligations.RowClassesFollowTheErasures := by
  refine ⟨classifyRow_iff, rowClass_ne_clean, fun b g row reason => ?_, fun w g p => classifyRow_last_ne_deferrable _, ?_,
    fun place g c b upsets p profile context band reading quiet =>
      advanceSweepBand_reading upsets profile context band reading quiet⟩
  · rw [SweepBand.rowClass, decide_eq_true rfl]
    exact classifyRow_last_ne_deferrable _ reason
  · intro place g c d b x upsets p row context band
    refine ⟨b.erased g row, involve d.involved b (b.erased g row), fun s => mem_erased, fun s => mem_mendable,
      fun s h => getLsbD_involve _ _ _ s h, ?_, ?_, ?_⟩
    · exact classifySweepRow_recoverable context band
    · exact fun reason => classifySweepRow_deferrable context
    · exact fun lost => ⟨classifySweepRow_lost context band lost, fun f => classifySweepRow_lost_frame lost⟩

end Sys2Proof.Machine
end

section
/-! PROOFS. MEDIUM and NOT_READY (R69 to R71, R78, R79): what an answer leaves to hold after everything that follows from
it, what its request does, and O46. -/

namespace Sys2Proof.Machine

/-! ### Elements by number -/

/-- An element after a change, by its number. -/
theorem getD_modAt {α : Type} (f : α → α) (l : List α) (i j : Nat) (d : α) :
    (modAt f l i).getD j d = if i = j ∧ j < l.length then f (l.getD j d) else l.getD j d := by
  split
  · rename_i h
    obtain ⟨rfl, inRange⟩ := h
    exact getD_modAt_self f l d inRange
  · rename_i h
    by_cases same : i = j
    · have out : l.length ≤ j := by omega
      simp [List.getD_eq_getElem?_getD, out]
    · exact getD_modAt_ne f l d same

/-- A Member Table record after a change. -/
theorem member_modMember (p : Part) (i j : Nat) (f : Member → Member) :
    (p.modMember i f).member j =
      if i = j ∧ j < p.geometry.members.length then f (p.member j) else p.member j :=
  getD_modAt f p.geometry.members i j Member.unmappedRecord

/-- A lane after a change. -/
theorem lane_modLane (p : Part) (i j : Nat) (f : Lane → Lane) :
    (p.modLane i f).lane j = if i = j ∧ j < p.lanes.length then f (p.lane j) else p.lane j :=
  getD_modAt f p.lanes i j Lane.initial

/-- A member that is mapped has its record. -/
theorem slot_lt_of_mapped {p : Part} {slot : Nat} (mapped : (p.member slot).state ≠ .unmapped) :
    slot < p.geometry.members.length := by
  refine Nat.lt_of_not_le fun out => mapped ?_
  rw [Part.member, List.getD_eq_getElem?_getD, List.getElem?_eq_none out]
  rfl

/-- A medium error counted (R9, R69). -/
theorem countMedium_medium {p : Part} {slot : Nat} (mapped : (p.member slot).state ≠ .unmapped) :
    ((countMedium slot p).member slot).medium = min 65535 ((p.member slot).medium + 1) := by
  rw [countMedium, member_modMember, if_pos ⟨rfl, slot_lt_of_mapped mapped⟩]
  rfl

/-- Counting a medium error changes no member's state. -/
theorem countMedium_state (p : Part) (slot s : Nat) : ((countMedium slot p).member s).state = (p.member s).state := by
  rw [countMedium, member_modMember]
  split <;> rfl

/-- Counting a medium error changes no tag. -/
theorem countMedium_tag (p : Part) (slot lane t : Nat) : (countMedium slot p).tag lane t = p.tag lane t := rfl

/-! ### What holds on after an answer

Whatever follows from an answer (its request's completion, an absence, the bands that go on) frees no member of its
absence, counts no medium error but those counted on purpose, and issues no tag. -/

/-- The lanes stay as many, a FREE tag stays FREE, medium counters stay, and an ABSENT member stays ABSENT. -/
structure Part.Keeps (p q : Part) : Prop where
  lanes : q.lanes.length = p.lanes.length
  free : ∀ lane tag, p.tag lane tag = .free → q.tag lane tag = .free
  medium : ∀ slot, (q.member slot).medium = (p.member slot).medium
  absent : ∀ slot, (p.member slot).state = .absent → (q.member slot).state = .absent

namespace Part.Keeps

theorem refl (p : Part) : p.Keeps p := ⟨rfl, fun _ _ => id, fun _ => rfl, fun _ => id⟩

theorem trans {p q r : Part} (h : p.Keeps q) (k : q.Keeps r) : p.Keeps r :=
  ⟨k.lanes.trans h.lanes, fun l t x => k.free l t (h.free l t x), fun s => (k.medium s).trans (h.medium s),
    fun s x => k.absent s (h.absent s x)⟩

theorem ite {p q r : Part} {c : Prop} [Decidable c] (h : p.Keeps q) (k : p.Keeps r) : p.Keeps (if c then q else r) := by
  split
  · exact h
  · exact k

theorem foldl {α : Type} {f : Part → α → Part} (h : ∀ (p : Part) a, p.Keeps (f p a)) (l : List α) (p : Part) :
    p.Keeps (l.foldl f p) := by
  induction l generalizing p with
  | nil => exact .refl p
  | cons a l ih => exact (h p a).trans (ih _)

/-- Equal lanes and members. -/
theorem of_eq {p q : Part} (lanes : q.lanes = p.lanes) (members : q.geometry.members = p.geometry.members) : p.Keeps q := by
  have member : ∀ slot, q.member slot = p.member slot := fun slot => by rw [Part.member, members]; rfl
  exact ⟨congrArg _ lanes, fun l t h => by rwa [Part.tag, Part.lane, lanes],
    fun s => by rw [member], fun s h => by rwa [member]⟩

/-- A lane changes and its FREE tags stay FREE. -/
theorem modLane (p : Part) (i : Nat) (f : Lane → Lane)
    (h : ∀ l t, l.tags.getD t .free = .free → (f l).tags.getD t .free = .free) : p.Keeps (p.modLane i f) := by
  refine ⟨length_modAt f p.lanes i, fun l t free => ?_, fun _ => rfl, fun _ => id⟩
  rw [Part.tag, lane_modLane]
  split
  · exact h _ t free
  · exact free

/-- A record changes, its medium counter stays, and an ABSENT one stays ABSENT. -/
theorem modMember (p : Part) (i : Nat) (f : Member → Member) (medium : ∀ m, (f m).medium = m.medium)
    (absent : (p.member i).state = .absent → (f (p.member i)).state = .absent) : p.Keeps (p.modMember i f) := by
  refine ⟨rfl, fun _ _ => id, fun s => ?_, fun s h => ?_⟩
  · rw [member_modMember]
    split
    · exact medium _
    · rfl
  · rw [member_modMember]
    split
    · rename_i here
      rw [← here.1] at h ⊢
      exact absent h
    · exact h

/-- A member takes a state; an ABSENT one takes no other. -/
theorem memberState (p : Part) (i : Nat) (state : MemberState) (h : (p.member i).state = .absent → state = .absent) :
    p.Keeps (p.modMember i fun x => { x with state }) := .modMember p i _ (fun _ => rfl) h

/-- The array condition is derived anew. -/
theorem deriveFailed (p : Part) : p.Keeps (deriveFailed p) := .of_eq rfl rfl

end Part.Keeps

/-- The TARGET is not ABSENT. -/
theorem targetSlot_state {p : Part} {slot : Nat} (h : p.targetSlot = some slot) : (p.member slot).state = .target := by
  obtain ⟨⟨m, hm, target⟩, -⟩ := lowestIndex_some h
  rw [Part.member, List.getD_eq_getElem?_getD, hm]
  simpa using target

/-- What the shared operations do keeps it all. -/
theorem Work.keeps {p q : Part} (h : Work p q) : p.Keeps q := by
  induction h with
  | refl p => exact .refl p
  | trans _ _ h k => exact h.trans k
  | other same _ _ => exact .of_eq same.lanes same.members
  | staging same _ => exact .of_eq same.lanes same.members
  | reserve same _ _ => exact .of_eq same.lanes same.members
  | lane p i f tags => exact .modLane p i f fun l t free => by rwa [tags]
  | online p slot target =>
    refine (Part.Keeps.memberState p slot .online fun absent => ?_).trans (.deriveFailed _)
    rw [targetSlot_state target] at absent
    cases absent
  | _ => exact .of_eq rfl rfl

/-! ### Absence (R11, R12, R77) -/

/-- The lane of an ABSENT member closes: what was FREE stays FREE. -/
theorem closeLane_keeps (lane : Nat) (p : Part) : p.Keeps (closeLane lane p) := by
  refine (Part.Keeps.modLane p lane Lane.close fun l t free => ?_).trans (completeAbsent_work _ _).keeps
  simp only [Lane.close, List.getD_eq_getElem?_getD, List.getElem?_map] at free ⊢
  cases h : l.tags[t]? with
  | none => rfl
  | some x =>
    rw [h] at free
    cases free
    rfl

/-- A member that is there changes to ABSENT; the rest of its absence keeps the change. -/
theorem makeAbsent_after_change {slot : Nat} {p : Part}
    (present : (p.member slot).state = .online ∨ (p.member slot).state = .target) :
    (p.modMember slot fun x => { x with state := .absent }).Keeps (makeAbsent slot p) := by
  rw [makeAbsent, if_pos present]
  have changed := (Part.Keeps.deriveFailed (p.modMember slot fun x => { x with state := .absent })).trans
    (raiseCause_work .memberDown _).keeps
  have told := Part.Keeps.ite (c := (p.member slot).state = .target) (changed.trans (haltCause_work .spareFault _).keeps) changed
  exact (Part.Keeps.ite (told.trans (arrayFails_work _).keeps) told).trans (closeLane_keeps _ _)

theorem makeAbsent_keeps (slot : Nat) (p : Part) : p.Keeps (makeAbsent slot p) := by
  by_cases present : (p.member slot).state = .online ∨ (p.member slot).state = .target
  · exact (Part.Keeps.memberState p slot .absent fun _ => rfl).trans (makeAbsent_after_change present)
  · rw [makeAbsent, if_neg present]
    exact .refl p

/-- A mapped member that is made ABSENT is ABSENT (R11). -/
theorem makeAbsent_state {slot : Nat} {p : Part} (mapped : (p.member slot).state ≠ .unmapped) :
    ((makeAbsent slot p).member slot).state = .absent := by
  cases state : (p.member slot).state with
  | unmapped => exact absurd state mapped
  | absent => exact (makeAbsent_keeps slot p).absent slot state
  | _ =>
    refine (makeAbsent_after_change (by simp [state])).absent slot ?_
    rw [member_modMember, if_pos ⟨rfl, slot_lt_of_mapped mapped⟩]

/-! ### Sectors delivered (R68, R69) -/

theorem countTrailer_keeps (slot : Nat) (p : Part) : p.Keeps (countTrailer slot p) :=
  .modMember p slot _ (fun _ => rfl) id

theorem checkDelivered_keeps (q : LaneRequest) (i : Nat) (p : Part) : p.Keeps (checkDelivered q i p) := by
  unfold checkDelivered
  exact .ite (frameError_work ..).keeps
    ((Part.Keeps.ite (countTrailer_keeps _ p) (.refl p)).trans (recordResult_work ..).keeps)

theorem deliver_keeps (q : LaneRequest) (sectors : List Sector) (upsets : List Nat) (p : Part) :
    p.Keeps (deliver q sectors upsets p) :=
  ((Part.Keeps.foldl (fun x _ => (loadFrame_work _ _ _ x).keeps) _ p).trans (strikeFrames_work upsets _).keeps).trans
    (.foldl (fun x i => checkDelivered_keeps q i x) _ _)

/-! ### Results recorded (R26) -/

/-- A band being worked on, changed: the view of it changes there and nowhere else. -/
theorem bandView_modBand {p : Part} {e : Nat} {v : BandView} (f : OrderBand → OrderBand) (view : p.bandView e = some v) :
    (p.modBand e f).bandView e = some { v with ext := { v.ext with band := some (f v.band) }, band := f v.band } := by
  unfold Part.bandView at view
  split at view
  · rename_i g x ext profile entry extent
    split at view
    · rename_i stripe band hasStripe hasBand
      cases view
      obtain ⟨y, hy, work⟩ := extent?_eq_some.mp extent
      obtain rfl : x = y := Option.some.inj (entry.symm.trans hy)
      have entered : (p.modBand e f).entry? e =
          some { x with work := .extent { ext with band := some (f band) } } := by
        rw [Part.modBand, Part.modExtent, entry?_modEntry_self, entry]
        simp [work, hasBand]
      have changed : (p.modBand e f).extent? e = some { ext with band := some (f band) } :=
        extent?_eq_some.mpr ⟨_, entered, rfl⟩
      have same : (p.modBand e f).geometry.profile = some g := profile
      simp only [Part.bandView, same, entered, changed, hasStripe]
    · cases view
  · cases view

/-- Blocks of an owner's rows take results, and neither the frames, the lanes nor the geometry change (R26). -/
def RecordedAlone (o : Owner) (rs : List (Nat × Nat × BlockResult)) (p u : Part) : Prop :=
  Recorded o rs p u ∧ u.buffer = p.buffer ∧ u.lanes = p.lanes ∧ u.geometry = p.geometry

theorem RecordedAlone.refl (o : Owner) (p : Part) : RecordedAlone o [] p p :=
  ⟨⟨fun _ _ _ h => by simpa using h, fun _ _ _ h => by simp [h]⟩, rfl, rfl, rfl⟩

/-- Results recorded one after the other. -/
theorem Recorded.trans {o : Owner} {rs rs' : List (Nat × Nat × BlockResult)} {p u w : Part} (h : Recorded o rs p u)
    (k : Recorded o rs' u w) : Recorded o (rs ++ rs') p w := by
  refine ⟨fun place b ho hb => ?_, fun e v ho hv => ?_⟩
  · rw [k.1 place _ ho (h.1 place b ho hb), List.append_assoc]
  · obtain ⟨v', hv', band⟩ := Option.map_eq_some_iff.mp (h.2 e v ho hv)
    rw [k.2 e v' ho hv', band]
    simp

theorem RecordedAlone.trans {o : Owner} {rs rs' : List (Nat × Nat × BlockResult)} {p u w : Part}
    (h : RecordedAlone o rs p u) (k : RecordedAlone o rs' u w) : RecordedAlone o (rs ++ rs') p w := by
  obtain ⟨recorded, buffer, lanes, geometry⟩ := h
  obtain ⟨recorded', buffer', lanes', geometry'⟩ := k
  exact ⟨recorded.trans recorded', buffer'.trans buffer, lanes'.trans lanes, geometry'.trans geometry⟩

/-- A block takes its result, and that is all. -/
theorem recordResult_recorded (o : Owner) (row slot : Nat) (r : BlockResult) (p : Part) :
    RecordedAlone o [(row, slot, r)] p (recordResult o row slot r p) := by
  cases o with
  | sweepBand place =>
    refine ⟨⟨fun place' b same band => ?_, fun _ _ same => nomatch same⟩, rfl, rfl, rfl⟩
    cases same
    obtain ⟨c, context, hb⟩ := Option.bind_eq_some_iff.mp band
    simp [recordResult, Part.sweepBand?, context, hb]
  | orderBand e =>
    refine ⟨⟨fun _ _ same => (nomatch same), fun e' v same view => ?_⟩, rfl, rfl, rfl⟩
    cases same
    simp only [recordResult, Part.modRow, bandView_modBand _ view, Option.map_some]
    congr 2
    refine List.map_congr_left fun w _ => ?_
    by_cases here : w.row = row
    · simp [here]
    · simp [here, Ne.symm here]

/-- Results recorded for blocks one after the other. -/
theorem foldl_recordResult_recorded (o : Owner) (l : List (Nat × Nat × BlockResult)) (p : Part) :
    RecordedAlone o l p (l.foldl (fun x a => recordResult o a.1 a.2.1 a.2.2 x) p) := by
  induction l generalizing p with
  | nil => exact .refl o p
  | cons a l ih => exact (recordResult_recorded o a.1 a.2.1 a.2.2 p).trans (ih _)

/-! ### Requests complete (R26, R107) -/

/-- Each block of a READ that completes without sectors takes the kind, and nothing else changes (R26). -/
theorem completeErased_read {q : LaneRequest} (read : q.write = false) (k : ErasureKind) (p : Part) :
    RecordedAlone q.owner ((List.range q.count).map fun i => (q.row + i, q.slot, .erased k)) p (completeErased q k p) := by
  have h := foldl_recordResult_recorded q.owner ((List.range q.count).map fun i => (q.row + i, q.slot, .erased k)) p
  rw [List.foldl_map] at h
  rwa [completeErased, read]

/-- A WRITE that completes without a GOOD answer completes as failed. -/
theorem completeErased_write {q : LaneRequest} (write : q.write = true) (k : ErasureKind) (p : Part) :
    completeErased q k p = completeWrite q false p := if_pos write

/-- A mend's outcome is noted in its context (R107). -/
theorem context?_completeWrite_mend {q : LaneRequest} {place : Nat} {c : Context} {p : Part} (good : Bool)
    (owner : q.owner = .sweepBand place) (mend : q.mend = true) (context : p.context? place = some c) :
    (completeWrite q good p).context? place =
      some (if good then { c with mendedRows := setBit c.mendedRows q.row } else { c with mendFailed := true }) := by
  rw [completeWrite, owner]
  simp [mend, context]

/-- A WRITE that fails makes its member ABSENT (R78). A mend does not: it counts a medium error, where MEDIUM has not
counted its own (R69, R79). -/
theorem failRequest_write {q : LaneRequest} (k : ErasureKind) (p : Part) (write : q.write = true) :
    failRequest q k p = completeWrite q false
      (if q.mend then if k = .medium then p else countMedium q.slot p else makeAbsent q.slot p) := by
  cases mend : q.mend
  · simp [failRequest, write, mend, completeErased_write]
  · by_cases medium : k = .medium <;> simp [failRequest, write, mend, medium, completeErased_write]

/-- A READ that fails completes with the kind. -/
theorem failRequest_read {q : LaneRequest} (k : ErasureKind) (p : Part) (read : q.write = false) :
    failRequest q k p = completeErased q k p := by
  simp [failRequest, read]

/-- A request with retries left rejoins the head of its queue (R70, R72). -/
theorem retryOrFail_again {q : LaneRequest} {g : Profile} {p : Part} (k : ErasureKind) (profile : p.geometry.profile = some g)
    (left : q.retries < g.requestRetries) : retryOrFail q k p = retryRequest q p := by
  simp [retryOrFail, profile, left]

/-- A request whose retries are used fails (R70, R72). -/
theorem retryOrFail_used {q : LaneRequest} {g : Profile} {p : Part} (k : ErasureKind) (profile : p.geometry.profile = some g)
    (used : g.requestRetries ≤ q.retries) : retryOrFail q k p = failRequest q k p := by
  simp [retryOrFail, profile, Nat.not_lt.mpr used]

/-- A request that joins the head of its class queue is its head. -/
theorem head_joinHead (l : Lane) (q : LaneRequest) : (l.joinHead q).head q.laneClass = some q := by
  unfold Lane.joinHead
  cases q.laneClass <;> rfl

/-- A request that rejoins its lane is the head of its class queue there. -/
theorem lane_head_joinHead {p : Part} {lane : Nat} (q : LaneRequest) (inRange : lane < p.lanes.length) :
    ((p.modLane lane fun l => l.joinHead q).lane lane).head q.laneClass = some q := by
  rw [lane_modLane, if_pos ⟨rfl, inRange⟩, head_joinHead]

theorem joinHead_keeps (p : Part) (lane : Nat) (q : LaneRequest) : p.Keeps (p.modLane lane fun l => l.joinHead q) :=
  .modLane p lane _ fun l t free => by rwa [joinHead_tags]

/-! ### Answers (R62, R68 to R71) -/

/-- A lane that is not there has only FREE tags. -/
theorem tag_free_of_no_lane {p : Part} {lane : Nat} (out : ¬lane < p.lanes.length) (tag : Nat) :
    p.tag lane tag = .free := by
  have unmapped : p.lane lane = Lane.initial := by
    rw [Part.lane, List.getD_eq_getElem?_getD, List.getElem?_eq_none (Nat.le_of_not_lt out)]
    rfl
  have all : ∀ x ∈ Lane.initial.tags, x = Tag.free := fun _ => List.eq_of_mem_replicate
  rw [Part.tag, unmapped, List.getD_eq_getElem?_getD]
  cases h : Lane.initial.tags[tag]? with
  | none => rfl
  | some x => exact all x (List.mem_of_getElem? h)

/-- A tag that is freed is FREE. -/
theorem tag_setTag_free (p : Part) (lane tag : Nat) : (setTag lane tag .free p).tag lane tag = .free := by
  by_cases inRange : lane < p.lanes.length
  · rw [Part.tag, setTag, lane_modLane, if_pos ⟨rfl, inRange⟩, getD_modAt]
    split
    · rfl
    · rename_i out
      simp [List.getD_eq_getElem?_getD, Nat.le_of_not_lt fun h => out ⟨rfl, h⟩]
  · exact tag_free_of_no_lane (by simpa [setTag, Part.modLane] using inRange) tag

/-- What follows from an event on a lane keeps what an answer leaves. -/
theorem afterLane_keeps (lane : Nat) (upsets : List Nat) (p : Part) : p.Keeps (afterLane lane upsets p) :=
  (afterLane_work lane upsets p).keeps

/-- Upsets strike frames alone: a record is as it was. -/
theorem member_strikeFrames (upsets : List Nat) (p : Part) (slot : Nat) :
    (strikeFrames upsets p).member slot = p.member slot := by rw [Part.member, strikeFrames_geometry]; rfl

/-- A freed tag and upsets leave the installed profile. -/
theorem profile_strikeFrames_setTag (upsets : List Nat) (lane tag : Nat) (x : Tag) (p : Part) :
    (strikeFrames upsets (setTag lane tag x p)).geometry.profile = p.geometry.profile := by
  rw [strikeFrames_geometry]
  rfl

/-- The state that a command answers, by its part. -/
theorem Answers.next {c : Instr} {s : State} {p : Part} (h : Answers c s p) : ∃ t, exec c s = .next t ∧ t.part = p :=
  ⟨_, h, rfl⟩

/-- An answer to an ISSUED tag of a lane that takes answers reaches the tag's request, with the tag FREE again. -/
theorem answer_issued {lane tag : Nat} {upsets : List Nat} {p : Part} {q : LaneRequest} {sent : List Sector}
    (f : LaneRequest → Part → Part) (takes : (p.lane lane).takesAnswers = true) (issued : p.tag lane tag = .issued q sent) :
    answer lane tag upsets f p = afterLane lane upsets (f q (setTag lane tag .free p)) := by
  simp only [answer, takes, issued, if_true]

section
variable {lane tag : Nat} {upsets : List Nat} {s : State} {q : LaneRequest} {sent : List Sector}

/-- NOT_READY on an ISSUED tag (R70). -/
theorem exec_notReady_issued (takes : (s.part.lane lane).takesAnswers = true)
    (issued : s.part.tag lane tag = .issued q sent) :
    Answers (.notReady lane tag upsets) s (afterLane lane upsets (takeNotReady q upsets (setTag lane tag .free s.part))) :=
  congrArg (becomes s) (answer_issued _ takes issued)

/-- MEDIUM on the ISSUED tag of a WRITE, or of a READ with the sectors before its failing index (R69). -/
theorem exec_medium_taken (takes : (s.part.lane lane).takesAnswers = true) (issued : s.part.tag lane tag = .issued q sent)
    (index : Nat) (sectors : List Sector) (fits : q.write = true ∨ sectors.length = failingIndex q index) :
    Answers (.medium lane tag index sectors upsets) s
      (afterLane lane upsets (takeMedium q (failingIndex q index) sectors upsets (setTag lane tag .free s.part))) := by
  refine congrArg (becomes s) ((answer_issued _ takes issued).trans ?_)
  rcases fits with write | fits
  · simp [write]
  · simp [fits]

/-- MEDIUM on the ISSUED tag of a READ with another number of sectors is taken as NOT_READY (R71). -/
theorem exec_medium_short (takes : (s.part.lane lane).takesAnswers = true) (issued : s.part.tag lane tag = .issued q sent)
    (index : Nat) (sectors : List Sector) (read : q.write = false) (short : sectors.length ≠ failingIndex q index) :
    Answers (.medium lane tag index sectors upsets) s
      (afterLane lane upsets (takeNotReady q upsets (setTag lane tag .free s.part))) := by
  refine congrArg (becomes s) ((answer_issued _ takes issued).trans ?_)
  simp [read, short]

end

/-- The sectors before the failing index are delivered, and the block at it is MEDIUM (R69). -/
def mediumDelivered (q : LaneRequest) (j : Nat) (sectors : List Sector) (upsets : List Nat) (p : Part) : Part :=
  recordResult q.owner (q.row + j) q.slot (.erased .medium) (deliver q sectors upsets (countMedium q.slot p))

theorem mediumDelivered_keeps (q : LaneRequest) (j : Nat) (sectors : List Sector) (upsets : List Nat) (p : Part) :
    (countMedium q.slot p).Keeps (mediumDelivered q j sectors upsets p) :=
  (deliver_keeps ..).trans (recordResult_work ..).keeps

/-- MEDIUM taken by a READ: blocks behind the failing index follow up (R69). -/
theorem takeMedium_read {q : LaneRequest} (j : Nat) (sectors : List Sector) (upsets : List Nat) (p : Part)
    (read : q.write = false) :
    takeMedium q j sectors upsets p =
      if j + 1 < q.count then
        (mediumDelivered q j sectors upsets p).modLane q.lane fun l => l.joinHead (q.followUp j)
      else mediumDelivered q j sectors upsets p := by
  simp only [takeMedium, read, mediumDelivered]
  rfl

theorem takeMedium_write {q : LaneRequest} (j : Nat) (sectors : List Sector) (upsets : List Nat) (p : Part)
    (write : q.write = true) : takeMedium q j sectors upsets p = failRequest q .medium (countMedium q.slot p) :=
  if_pos write

/-- What a READ's MEDIUM does, its medium error counted, keeps what the answer leaves. -/
theorem takeMedium_read_keeps {q : LaneRequest} (j : Nat) (sectors : List Sector) (upsets : List Nat) (p : Part)
    (read : q.write = false) : (countMedium q.slot p).Keeps (takeMedium q j sectors upsets p) := by
  rw [takeMedium_read j sectors upsets p read]
  have delivered := mediumDelivered_keeps q j sectors upsets p
  exact .ite (delivered.trans (joinHead_keeps _ _ _)) delivered

/-- A WRITE's completion, and what follows from it, keep what the answer leaves. -/
theorem afterLane_completeWrite_keeps (lane : Nat) (upsets : List Nat) (q : LaneRequest) (good : Bool) (p : Part) :
    p.Keeps (afterLane lane upsets (completeWrite q good p)) :=
  (completeWrite_work q good p).keeps.trans (afterLane_keeps lane upsets _)

/-- A member whose WRITE failed is ABSENT after all that follows from it (R78). -/
theorem failed_write_absent (lane : Nat) (upsets : List Nat) (q : LaneRequest) {p : Part}
    (mapped : (p.member q.slot).state ≠ .unmapped) :
    ((afterLane lane upsets (completeWrite q false (makeAbsent q.slot p))).member q.slot).state = .absent :=
  (afterLane_completeWrite_keeps lane upsets q false _).absent q.slot (makeAbsent_state mapped)

section
variable {lane tag : Nat} {upsets : List Nat} {s : State} {q : LaneRequest} {sent : List Sector}

/-- MEDIUM taken by a READ: what the answer and the count leave holds on in the next state. -/
theorem medium_read_next (takes : (s.part.lane lane).takesAnswers = true) (issued : s.part.tag lane tag = .issued q sent)
    (index : Nat) (sectors : List Sector) (read : q.write = false) (fits : sectors.length = failingIndex q index) :
    let p := setTag lane tag .free s.part
    ∃ t, exec (.medium lane tag index sectors upsets) s = .next t ∧
      t.part = afterLane lane upsets (takeMedium q (failingIndex q index) sectors upsets p) ∧
      (countMedium q.slot p).Keeps t.part := by
  obtain ⟨t, next, part⟩ := (exec_medium_taken (upsets := upsets) takes issued index sectors (.inr fits)).next
  exact ⟨t, next, part, part ▸ (takeMedium_read_keeps _ sectors upsets _ read).trans (afterLane_keeps lane upsets _)⟩

/-- MEDIUM taken by a WRITE: a mend fails gently, another WRITE takes its member (R69, R78, R79). -/
theorem medium_write_next (takes : (s.part.lane lane).takesAnswers = true) (issued : s.part.tag lane tag = .issued q sent)
    (mapped : (s.part.member q.slot).state ≠ .unmapped) (index : Nat) (sectors : List Sector) (write : q.write = true) :
    let p := countMedium q.slot (setTag lane tag .free s.part)
    ∃ t, exec (.medium lane tag index sectors upsets) s = .next t ∧
      t.part = afterLane lane upsets (completeWrite q false (if q.mend then p else makeAbsent q.slot p)) ∧
      p.Keeps t.part ∧ (q.mend = false → (t.part.member q.slot).state = .absent) := by
  intro p
  obtain ⟨t, next, part⟩ := (exec_medium_taken (upsets := upsets) takes issued index sectors (.inl write)).next
  rw [takeMedium_write _ sectors upsets _ write, failRequest_write .medium _ write, if_pos rfl] at part
  refine ⟨t, next, part, part ▸ (Part.Keeps.ite (.refl p) (makeAbsent_keeps q.slot p)).trans
    (afterLane_completeWrite_keeps lane upsets q false _), fun mend => ?_⟩
  rw [part, if_neg (by simp [mend])]
  exact failed_write_absent lane upsets q (by rwa [countMedium_state])

/-- NOT_READY taken by a request with retries left (R70). -/
theorem notReady_again_next (takes : (s.part.lane lane).takesAnswers = true)
    (issued : s.part.tag lane tag = .issued q sent) {g : Profile} (profile : s.part.geometry.profile = some g)
    (left : q.retries < g.requestRetries) :
    let r := strikeFrames upsets (setTag lane tag .free s.part)
    ∃ t, exec (.notReady lane tag upsets) s = .next t ∧ t.part = afterLane lane upsets (retryRequest q r) ∧
      r.Keeps t.part := by
  intro r
  obtain ⟨t, next, part⟩ := (exec_notReady_issued (upsets := upsets) takes issued).next
  rw [takeNotReady, retryOrFail_again _ ((profile_strikeFrames_setTag ..).trans profile) left] at part
  exact ⟨t, next, part, part ▸ (joinHead_keeps r q.lane _).trans (afterLane_keeps lane upsets (retryRequest q r))⟩

/-- NOT_READY taken by a request whose retries are used: it fails (R70). -/
theorem notReady_failed_next (takes : (s.part.lane lane).takesAnswers = true)
    (issued : s.part.tag lane tag = .issued q sent) {g : Profile} (profile : s.part.geometry.profile = some g)
    (used : g.requestRetries ≤ q.retries) :
    ∃ t, exec (.notReady lane tag upsets) s = .next t ∧
      t.part = afterLane lane upsets (failRequest q .notReady (strikeFrames upsets (setTag lane tag .free s.part))) := by
  obtain ⟨t, next, part⟩ := (exec_notReady_issued (upsets := upsets) takes issued).next
  rw [takeNotReady, retryOrFail_used _ ((profile_strikeFrames_setTag ..).trans profile) used] at part
  exact ⟨t, next, part⟩

end

/-- A READ that failed as NOT_READY (R26, R70). -/
theorem failed_read_keeps (lane : Nat) (upsets : List Nat) {q : LaneRequest} {r : Part} (read : q.write = false) :
    afterLane lane upsets (failRequest q .notReady r) = afterLane lane upsets (completeErased q .notReady r) ∧
      r.Keeps (afterLane lane upsets (failRequest q .notReady r)) := by
  rw [failRequest_read .notReady r read]
  exact ⟨rfl, (completeErased_work q _ r).keeps.trans (afterLane_keeps lane upsets _)⟩

/-- A WRITE that failed as NOT_READY: the tags stay FREE, and a mend counts a medium error where another WRITE takes its
member (R70, R78, R79). -/
theorem failed_write_next (lane : Nat) (upsets : List Nat) {q : LaneRequest} {r : Part} (write : q.write = true)
    (mapped : (r.member q.slot).state ≠ .unmapped) :
    let t := afterLane lane upsets (failRequest q .notReady r)
    t = afterLane lane upsets
        (completeWrite q false (if q.mend then countMedium q.slot r else makeAbsent q.slot r)) ∧
      (∀ l j, r.tag l j = .free → t.tag l j = .free) ∧
      (q.mend = true → (t.member q.slot).medium = min 65535 ((r.member q.slot).medium + 1)) ∧
      (q.mend = false → (t.member q.slot).state = .absent) := by
  rw [failRequest_write .notReady r write, if_neg (by decide : ErasureKind.notReady ≠ .medium)]
  cases q.mend with
  | true =>
    have kept := afterLane_completeWrite_keeps lane upsets q false (countMedium q.slot r)
    exact ⟨rfl, kept.free, fun _ => (kept.medium q.slot).trans (countMedium_medium mapped), nofun⟩
  | false =>
    have kept := (makeAbsent_keeps q.slot r).trans (afterLane_completeWrite_keeps lane upsets q false _)
    exact ⟨rfl, kept.free, nofun, fun _ => failed_write_absent lane upsets q mapped⟩

/-- Settles O46: each answer reaches its request with the tag FREE, and what follows from the request's completion keeps
the tag, the count and the absence (`Part.Keeps`). -/
theorem mediumAndNotReadyAnswersAreTaken : Obligations.MediumAndNotReadyAnswersAreTaken := by
  intro lane tag upsets s q sent g takes issued inRange profile mapped p r counted
  have free : p.tag lane tag = .free := tag_setTag_free s.part lane tag
  have freeCounted : (counted p).tag lane tag = .free := (countMedium_tag p q.slot lane tag).trans free
  have mediumCounted : ((counted p).member q.slot).medium = min 65535 ((s.part.member q.slot).medium + 1) :=
    countMedium_medium mapped
  have lanes : q.lane < p.lanes.length := by simpa [p, setTag, Part.modLane] using inRange
  have struck : p.Keeps r := (strikeFrames_work upsets p).keeps
  have freeStruck : r.tag lane tag = .free := struck.free lane tag free
  have record : r.member q.slot = s.part.member q.slot := member_strikeFrames upsets p q.slot
  refine ⟨fun index sectors read => ?_, fun index sectors write => ?_, fun left => ?_, fun used => ?_,
    fun read k x => completeErased_read read k x, fun o row slot b x => recordResult_recorded o row slot b x,
    fun place c owner mend context => ⟨context?_completeWrite_mend false owner mend context,
      context?_completeWrite_mend true owner mend context⟩⟩
  · intro j d
    refine ⟨fun fits => ?_, fun short =>
      (exec_medium_short takes issued index sectors read short).trans (exec_notReady_issued takes issued).symm⟩
    obtain ⟨t, next, part, kept⟩ := medium_read_next (upsets := upsets) takes issued index sectors read fits
    refine ⟨t, _, next, kept.free lane tag freeCounted, part, (kept.medium q.slot).trans mediumCounted, fun more => ?_,
      fun last => (takeMedium_read j sectors upsets p read).trans (if_neg (by omega))⟩
    have joined : takeMedium q j sectors upsets p = d.modLane q.lane fun l => l.joinHead (q.followUp j) :=
      (takeMedium_read j sectors upsets p read).trans (if_pos more)
    have inLanes : q.lane < d.lanes.length := (mediumDelivered_keeps q j sectors upsets p).lanes.symm ▸ lanes
    exact ⟨q.followUp j, joined ▸ lane_head_joinHead (q.followUp j) inLanes, joined, rfl⟩
  · obtain ⟨t, next, part, kept, gone⟩ := medium_write_next (upsets := upsets) takes issued mapped index sectors write
    exact ⟨t, next, kept.free lane tag freeCounted, part, (kept.medium q.slot).trans mediumCounted, gone⟩
  · obtain ⟨t, next, part, kept⟩ := notReady_again_next (upsets := upsets) takes issued profile left
    exact ⟨t, _, next, kept.free lane tag freeStruck, part, rfl,
      lane_head_joinHead { q with retries := q.retries + 1, origin := .retry } (struck.lanes.symm ▸ lanes)⟩
  · obtain ⟨t, next, part⟩ := notReady_failed_next (upsets := upsets) takes issued profile used
    refine ⟨t, next, ?_⟩
    rw [part]
    cases write : q.write with
    | false =>
      obtain ⟨completed, kept⟩ := failed_read_keeps lane upsets (r := r) write
      exact ⟨kept.free lane tag freeStruck, fun _ => completed, nofun, nofun, nofun⟩
    | true =>
      obtain ⟨completed, freed, medium, gone⟩ := failed_write_next lane upsets (r := r) write (by rwa [record])
      exact ⟨freed lane tag freeStruck, nofun, fun _ => completed, fun _ mend => by rw [medium mend, record], fun _ => gone⟩

end Sys2Proof.Machine
end

section
/-! PROOFS. The Member Port's tags and arbiter (R65 to R67): what each change to a lane does to its ISSUED tags, how a law
that every change keeps is kept by every step, and O5; then which class issues and what the issue records, and O19. -/

namespace Sys2Proof.Machine

/-! ### Tags outstanding (R67) -/

/-- Setting an element adds at most that element to those that meet a test. -/
theorem countP_modAt_const_le {α : Type} (test : α → Bool) (a : α) (l : List α) (i : Nat) :
    (modAt (fun _ => a) l i).countP test ≤ l.countP test + if test a then 1 else 0 := by
  induction l generalizing i with
  | nil => exact Nat.zero_le _
  | cons b l ih =>
    cases i with
    | zero => simp only [modAt, List.countP_cons]; omega
    | succ i => simp only [modAt, List.countP_cons]; have := ih i; omega

/-- The outstanding request count, as a count of tags. -/
theorem Lane.outstanding_eq_countP (l : Lane) : l.outstanding = l.tags.countP fun t => t.request.isSome :=
  List.countP_eq_length_filter.symm

/-- A tag that takes a value is at most one more ISSUED tag, and none if the value is not ISSUED. -/
theorem Lane.outstanding_withTag_le (l : Lane) (tag : Nat) (t : Tag) :
    ({ l with tags := modAt (fun _ => t) l.tags tag } : Lane).outstanding ≤
      l.outstanding + if t.request.isSome then 1 else 0 := by
  rw [outstanding_eq_countP, outstanding_eq_countP]
  exact countP_modAt_const_le _ t l.tags tag

/-- A closed lane has no request outstanding (R77). -/
theorem Lane.outstanding_close (l : Lane) : l.close.outstanding = 0 := by
  rw [outstanding_eq_countP, close, List.countP_map, List.countP_eq_zero]
  intro t _
  cases t <;> simp [Tag.request]

/-- An installed lane has no request outstanding (R80). -/
theorem Lane.outstanding_install (l : Lane) (state : Option MemberState) : (l.install state).outstanding = 0 := by
  cases state with
  | none => rfl
  | some s =>
    rw [outstanding_eq_countP, install, List.countP_map, List.countP_eq_zero]
    intro t _
    cases t <;> simp [Tag.quarantine, Tag.request]

/-- A FLUSHED frees QUARANTINED tags and no ISSUED one (R75). -/
theorem Lane.outstanding_flushed (l : Lane) : l.flushed.outstanding = l.outstanding := by
  rw [flushed]
  split
  · rw [outstanding_eq_countP, outstanding_eq_countP, List.countP_map]
    congr 1
    funext t
    cases t <;> rfl
  · rfl

@[simp] theorem Lane.length_tags_close (l : Lane) : l.close.tags.length = l.tags.length := List.length_map ..

@[simp] theorem Lane.length_tags_flushed (l : Lane) : l.flushed.tags.length = l.tags.length := by
  rw [flushed]
  split
  · exact List.length_map ..
  · rfl

theorem Lane.length_tags_install {l : Lane} (state : Option MemberState) (sixteen : l.tags.length = 16) :
    (l.install state).tags.length = 16 := by
  cases state with
  | none => rfl
  | some s => exact (List.length_map ..).trans sixteen

/-! ### The tag law, lane by lane -/

/-- What the tag law says of one lane, under the profile that is installed, if any. -/
def Lane.TagsFit (profile : Option Profile) (l : Lane) : Prop :=
  l.tags.length = 16 ∧ ∀ g, profile = some g → l.outstanding ≤ g.depth

theorem tagLaw_iff {p : Part} : TagLaw p ↔ ∀ l ∈ p.lanes, l.TagsFit p.geometry.profile := Iff.rfl

/-- A lane with as many tags and no more of them ISSUED fits as before. -/
theorem Lane.TagsFit.mono {profile : Option Profile} {l m : Lane} (fits : l.TagsFit profile)
    (length : m.tags.length = l.tags.length) (outstanding : m.outstanding ≤ l.outstanding) : m.TagsFit profile :=
  ⟨length.trans fits.1, fun g h => Nat.le_trans outstanding (fits.2 g h)⟩

/-- An element of a list with one element changed is an old one, or the changed one. -/
theorem mem_modAt {α : Type} {f : α → α} {l : List α} {i : Nat} {b : α} (h : b ∈ modAt f l i) :
    b ∈ l ∨ ∃ a, l[i]? = some a ∧ b = f a := by
  obtain ⟨j, hj⟩ := List.mem_iff_getElem?.mp h
  by_cases same : i = j
  · subst same
    rw [getElem?_modAt_self] at hj
    obtain ⟨a, ha, rfl⟩ := Option.map_eq_some_iff.mp hj
    exact .inr ⟨a, ha, rfl⟩
  · rw [getElem?_modAt_ne f l same] at hj
    exact .inl (List.mem_of_getElem? hj)

namespace TagLaw

/-- The law reads the lanes and the installed profile alone. -/
theorem of_eq {p q : Part} (law : TagLaw p) (lanes : q.lanes = p.lanes)
    (profile : q.geometry.profile = p.geometry.profile) : TagLaw q := by
  rw [tagLaw_iff, lanes, profile]
  exact law

/-- A lane changes, and it fits as it did. -/
theorem modLane {p : Part} (law : TagLaw p) (i : Nat) (f : Lane → Lane)
    (fits : ∀ l, p.lanes[i]? = some l → l.TagsFit p.geometry.profile → (f l).TagsFit p.geometry.profile) :
    TagLaw (p.modLane i f) := by
  intro l hl
  obtain old | ⟨m, hm, rfl⟩ := mem_modAt hl
  · exact law l old
  · exact fits m hm (law m (List.mem_of_getElem? hm))

/-- A lane changes to as many tags, no more of them ISSUED. -/
theorem modLane_mono {p : Part} (law : TagLaw p) (i : Nat) (f : Lane → Lane)
    (length : ∀ l, (f l).tags.length = l.tags.length) (outstanding : ∀ l, (f l).outstanding ≤ l.outstanding) :
    TagLaw (p.modLane i f) :=
  law.modLane i f fun l _ fit => fit.mono (length l) (outstanding l)

/-- A tag takes a value that is not ISSUED. -/
theorem setTag_notIssued {p : Part} (law : TagLaw p) (lane tag : Nat) (t : Tag) (notIssued : t.request = none) :
    TagLaw (setTag lane tag t p) :=
  law.modLane_mono lane _ (fun l => length_modAt _ l.tags tag) fun l => by
    simpa [notIssued] using l.outstanding_withTag_le tag t

/-- A tag becomes ISSUED on a lane with a request fewer outstanding than the lane depth limit (R65). -/
theorem setTag_issued {p : Part} (law : TagLaw p) (lane tag : Nat) (t : Tag) {g : Profile}
    (profile : p.geometry.profile = some g) (room : (p.lane lane).outstanding < g.depth) :
    TagLaw (setTag lane tag t p) := by
  refine law.modLane lane _ fun l here fit => ⟨(length_modAt _ l.tags tag).trans fit.1, fun g' installed => ?_⟩
  have same : g' = g := Option.some.inj (installed.symm.trans profile)
  have lane_eq : p.lane lane = l := by rw [Part.lane, List.getD_eq_getElem?_getD, here, Option.getD_some]
  have atMostOne : (if t.request.isSome then 1 else 0) ≤ 1 := by split <;> decide
  rw [lane_eq] at room
  rw [same]
  exact Nat.le_trans (l.outstanding_withTag_le tag t) (Nat.le_trans (Nat.add_le_add_left atMostOne _) room)

end TagLaw

/-- Installed lanes fit under any profile: none of their tags is ISSUED (R6, R80). -/
theorem tagsFit_of_mem_installLanes {g : Profile} {profile : Option Profile} {ls : List Lane} {i : Nat}
    (sixteen : ∀ l ∈ ls, l.tags.length = 16) : ∀ m ∈ installLanes g i ls, m.TagsFit profile := by
  induction ls generalizing i with
  | nil => nofun
  | cons l ls ih =>
    have here : (l.install (g.laneState i)).TagsFit profile :=
      ⟨l.length_tags_install _ (sixteen l (.head _)), fun _ _ => l.outstanding_install _ ▸ Nat.zero_le _⟩
    exact List.forall_mem_cons.mpr ⟨here, ih fun m hm => sixteen m (.tail _ hm)⟩

/-- A reset leaves every lane as it first was (R81, R186). -/
theorem tagLaw_of_initial_lanes {p : Part} (lanes : p.lanes = Part.initial.lanes) : TagLaw p := by
  rw [tagLaw_iff, lanes]
  intro l hl
  cases List.eq_of_mem_replicate hl
  exact ⟨rfl, fun _ _ => Nat.zero_le _⟩

/-! ### Every step keeps the tag law -/

/-- The shared operations issue no tag and install no profile. -/
theorem Work.tagLaw {p q : Part} (h : Work p q) (law : TagLaw p) : TagLaw q := by
  induction h with
  | refl => exact law
  | trans _ _ h k => exact k (h law)
  | other same _ _ => exact law.of_eq same.lanes same.profile
  | staging same _ => exact law.of_eq same.lanes same.profile
  | reserve same _ _ => exact law.of_eq same.lanes same.profile
  | lane p i f tags =>
    exact law.modLane_mono i f (fun l => congrArg List.length (tags l)) fun l =>
      Nat.le_of_eq (by rw [Lane.outstanding, tags, Lane.outstanding])
  | _ => exact law.of_eq rfl rfl

/-- Of what commands do, an issue alone adds an ISSUED tag, below the limit, and an installation alone changes the limit,
leaving no tag ISSUED. -/
theorem Reach.tagLaw {k : List Touch} {p q : Part} (h : Reach k p q) (law : TagLaw p) : TagLaw q := by
  induction h with
  | work w => exact w.tagLaw law
  | trans _ _ h k => exact k (h law)
  | close _ p lane =>
    exact law.modLane_mono lane _ Lane.length_tags_close fun l => l.outstanding_close ▸ Nat.zero_le _
  | free _ p lane tag => exact law.setTag_notIssued lane tag _ rfl
  | quarantine _ p lane tag => exact law.setTag_notIssued lane tag _ rfl
  | issue _ p lane tag q sent g profile room => exact law.setTag_issued lane tag _ profile room
  | flushed _ p lane => exact law.modLane_mono lane _ Lane.length_tags_flushed fun l => Nat.le_of_eq l.outstanding_flushed
  | install => exact tagsFit_of_mem_installLanes fun l hl => (law l hl).1
  | reset => exact tagLaw_of_initial_lanes rfl
  | engineReset => exact tagLaw_of_initial_lanes rfl
  | _ => exact law.of_eq rfl rfl

/-- A law of the part that everything a command can do keeps is kept by every step: the block idles, or the command in
front does one of these. -/
theorem step_keeps {Law : Part → Prop} (kept : ∀ {k p q}, Reach k p q → Law p → Law q) {s t : State} (law : Law s.part)
    (h : step s = .next t) : Law t.part := by
  unfold step at h
  split at h
  · cases h
    exact law
  · exact kept (exec_reach _ _ t h) law

/-- Settles O5: every change a command can make (`Reach`) keeps the law. -/
theorem everyStepKeepsTheTagLaw : Obligations.EveryStepKeepsTheTagLaw :=
  fun _ _ law next => step_keeps Reach.tagLaw law next

/-! ### The issuing class (R66) -/

theorem Lane.issuer_empty {l : Lane} (mode : ArbiterMode) (c : ArrayCondition) (sweep : l.sweepQueue = [])
    (order : l.orderQueue = []) : l.issuer mode c = none := by
  rw [issuer, sweep, order]

theorem Lane.issuer_sweep {l : Lane} (mode : ArbiterMode) (c : ArrayCondition) (sweep : l.sweepQueue ≠ [])
    (order : l.orderQueue = []) : l.issuer mode c = some .sweep := by
  obtain ⟨q, qs, waits⟩ := List.exists_cons_of_ne_nil sweep
  rw [issuer, waits, order]

theorem Lane.issuer_order {l : Lane} (mode : ArbiterMode) (c : ArrayCondition) (sweep : l.sweepQueue = [])
    (order : l.orderQueue ≠ []) : l.issuer mode c = some .order := by
  obtain ⟨q, qs, waits⟩ := List.exists_cons_of_ne_nil order
  rw [issuer, sweep, waits]

/-- With both classes waiting, the arbiter mode names the winner. -/
theorem Lane.issuer_contested {l : Lane} (mode : ArbiterMode) (c : ArrayCondition) (sweep : l.sweepQueue ≠ [])
    (order : l.orderQueue ≠ []) : l.issuer mode c = some (contestedWinner mode l.lastWinner c) := by
  obtain ⟨q, qs, sweepWaits⟩ := List.exists_cons_of_ne_nil sweep
  obtain ⟨r, rs, orderWaits⟩ := List.exists_cons_of_ne_nil order
  rw [issuer, sweepWaits, orderWaits]

/-- An issue records its winner exactly when it is contested. -/
theorem Lane.lastWinner_take (l : Lane) (k : LaneClass) :
    (l.take k).lastWinner = if l.sweepQueue ≠ [] ∧ l.orderQueue ≠ [] then k else l.lastWinner := by
  cases k <;> rfl

/-- At installation SWEEP is the last winner, on a lane of the profile and on one without a slot. -/
theorem Lane.lastWinner_install (l : Lane) (state : Option MemberState) : (l.install state).lastWinner = .sweep := by
  cases state <;> rfl

/-- Settles O19: the four cases of the two queues, then the record of the last winner. -/
theorem theArbiterNamesTheIssuingClass : Obligations.TheArbiterNamesTheIssuingClass := by
  intro l mode c
  refine ⟨l.issuer_empty mode c, l.issuer_sweep mode c, l.issuer_order mode c, fun sweep order => ?_,
    l.lastWinner_take, l.lastWinner_install⟩
  have named (m : ArbiterMode) : l.issuer m c = some (contestedWinner m l.lastWinner c) :=
    l.issuer_contested m c sweep order
  exact ⟨named .orderFirst, named .sweepFirst, named .alternate, named .byUrgency⟩

end Sys2Proof.Machine
end
